-- ==== Sys2Proof/Word.lean ====
section
/-! DEFINITION. The words of the CFU: bytes and 32-bit register words (spec/10_state.md R31, spec/00_scope.md R12, R13). -/

namespace Sys2Proof

/-- One payload or buffer byte. -/
abbrev Byte := BitVec 8

/-- One host register, one data register or one command word (30_encoding.md R110). -/
abbrev Word := BitVec 32

end Sys2Proof
end

