-- ==== Sys2Proof/Syntax.lean ====
section
/-! DEFINITION. The commands of the CFU, one constructor per row of spec/opcode_table.json, over operands that are already
taken out of their encoding (spec/30_encoding.md R112, R113, R126): widths and bit counts are the counts themselves, not
the encoded count minus one. -/

namespace Sys2Proof

/-- A data register number, D0 to D7 (fields A, B and C; 30_encoding.md R112). -/
abbrev DReg := BitVec 3

/-- A slot number 0 to 7 (field S, R112). A number at NSLOT or above is a fault at execution (R126). -/
abbrev SlotNo := BitVec 3

/-- A frame register (fields f and g, R113). -/
inductive FrameReg where
  | f0 | f1
  deriving DecidableEq, Repr

/-- The byte order of a byte field (field e, R113). -/
inductive ByteOrder where
  | be | le
  deriving DecidableEq, Repr

/-- The space of a bit field (field sp, R113). -/
inductive Space where
  | payload | ident
  deriving DecidableEq, Repr

/-- The identifier format (field ext, R113; 10_state.md R35). -/
inductive IdFormat where
  /-- 11-bit identifier. -/
  | std
  /-- 29-bit identifier. -/
  | ext
  deriving DecidableEq, Repr

/-- The direction of a transfer (field dir, R113; SEQ.dir, 10_state.md R45). -/
inductive Dir where
  | tx | rx
  deriving DecidableEq, Repr

/-- Which side speaks first in a round (field role, R113; SEQ.role, 10_state.md R45). -/
inductive Role where
  | client | server
  deriving DecidableEq, Repr

/-- The 35 commands (30_encoding.md R125). Operand order follows the assembler syntax of R134 as far as fields go:
register fields first, then the slot, then the small fields. -/
inductive Instr where
  /-- NOP (40_general.md R150). -/
  | nop
  /-- LDI Da, imm16 (R152). -/
  | ldi (a : DReg) (imm : BitVec 16)
  /-- LDIH Da, imm16 (R154). -/
  | ldih (a : DReg) (imm : BitVec 16)
  /-- FINIT Ff, Da, STD|EXT, len, fill (41_frame_unpacker.md R172). -/
  | finit (f : FrameReg) (a : DReg) (fmt : IdFormat) (len : BitVec 4) (fill : Byte)
  /-- FCOPY Ff, Fg (R175). -/
  | fcopy (f g : FrameReg)
  /-- FGETB.BE|.LE Da, Ff, off, w (R178). -/
  | fgetb (e : ByteOrder) (a : DReg) (f : FrameReg) (off : BitVec 3) (w : Nat)
  /-- FPUTB.BE|.LE Ff, off, w, Da (R181). -/
  | fputb (e : ByteOrder) (f : FrameReg) (off : BitVec 3) (w : Nat) (a : DReg)
  /-- FGETX Da, Ff.P|Ff.ID, pos, n (R185). -/
  | fgetx (a : DReg) (f : FrameReg) (sp : Space) (pos : BitVec 6) (n : Nat)
  /-- FPUTX Ff.P|Ff.ID, pos, n, Da (R188). -/
  | fputx (f : FrameReg) (sp : Space) (pos : BitVec 6) (n : Nat) (a : DReg)
  /-- FCLASS Da, Ff (R192). -/
  | fclass (a : DReg) (f : FrameReg)
  /-- CRCCLR (45_crc.md R322). -/
  | crcclr
  /-- CRCF Ff, off, n (R324). -/
  | crcf (f : FrameReg) (off : BitVec 3) (n : BitVec 4)
  /-- CRCB Ss, Da, Db (R326). -/
  | crcb (sl : SlotNo) (a b : DReg)
  /-- CRCRD Da (R328). -/
  | crcrd (a : DReg)
  /-- CRCCHK Da (R330). -/
  | crcchk (a : DReg)
  /-- BRD.BE|.LE Da, Ss[Db], w (44_buffer.md R302). -/
  | brd (e : ByteOrder) (a : DReg) (sl : SlotNo) (b : DReg) (w : Nat)
  /-- BWR.BE|.LE Ss[Db], w, Da (R305). -/
  | bwr (e : ByteOrder) (sl : SlotNo) (b : DReg) (w : Nat) (a : DReg)
  /-- FTOB Ss[Db], Ff, fo, n (R308). -/
  | ftob (sl : SlotNo) (b : DReg) (f : FrameReg) (fo : BitVec 3) (n : BitVec 4)
  /-- BTOF Ff, fo, n, Ss[Db] (R311). -/
  | btof (f : FrameReg) (fo : BitVec 3) (n : BitVec 4) (sl : SlotNo) (b : DReg)
  /-- SQSEG Ss, Da, TX|RX, CLIENT|SERVER[, UNK] (42_sequencer.md R202). -/
  | sqseg (sl : SlotNo) (a : DReg) (dir : Dir) (role : Role) (u : Bool)
  /-- SQBLK Ss, Da, Db, TX|RX (R204). -/
  | sqblk (sl : SlotNo) (a b : DReg) (dir : Dir)
  /-- SQSEND Ff, cs (R207). -/
  | sqsend (f : FrameReg) (cs : BitVec 3)
  /-- SQRECV Ff, cs (R211). -/
  | sqrecv (f : FrameReg) (cs : BitVec 3)
  /-- SQBTX Ff (R217). -/
  | sqbtx (f : FrameReg)
  /-- SQBRX Ff (R221). -/
  | sqbrx (f : FrameReg)
  /-- SQBACK Da, Db (R226). -/
  | sqback (a b : DReg)
  /-- SQREL (R234). -/
  | sqrel
  /-- RAOPEN Ss, Da, Db, Dc (43_reassembly.md R254). -/
  | raopen (sl : SlotNo) (a b c : DReg)
  /-- RACLOSE Ss (R260). -/
  | raclose (sl : SlotNo)
  /-- RAFIND Da, Db, Dc (R263). -/
  | rafind (a b c : DReg)
  /-- RACTS Ss, Da, Db (R266). -/
  | racts (sl : SlotNo) (a b : DReg)
  /-- RACTSTX Ss, Da, Db (R269). -/
  | ractstx (sl : SlotNo) (a b : DReg)
  /-- RADPO Ss, Da, Db (R272). -/
  | radpo (sl : SlotNo) (a b : DReg)
  /-- RADT Ss, Ff (R275). -/
  | radt (sl : SlotNo) (f : FrameReg)
  /-- RATX Ss, Ff (R281). -/
  | ratx (sl : SlotNo) (f : FrameReg)
  deriving DecidableEq, Repr

end Sys2Proof
end

