-- ==== Sys2Proof/WellFormed.lean ====
section
/-! DEFINITION. Which terms of Instr some command word encodes: a byte width is 1 to 4 and a bit count 1 to 32
(spec/30_encoding.md R126; spec/41_frame_unpacker.md R176, R177, R183). Every other operand fits by its type.
What exec does with a term that no word encodes is the model's (DESIGN CHOICE, safe, log entry 11). -/

namespace Sys2Proof

/-- A byte width that wm1 + 1 can be (R126). -/
abbrev widthOk (w : Nat) : Bool := 1 ≤ w && w ≤ 4

/-- A bit count that nm1 + 1 can be (R126). -/
abbrev countOk (n : Nat) : Bool := 1 ≤ n && n ≤ 32

/-- The well-formed instructions: exactly those that have an encoding. -/
def Instr.wellFormed : Instr → Bool
  | .fgetb _ _ _ _ w => widthOk w
  | .fputb _ _ _ w _ => widthOk w
  | .fgetx _ _ _ _ n => countOk n
  | .fputx _ _ _ n _ => countOk n
  | .brd _ _ _ _ w => widthOk w
  | .bwr _ _ _ w _ => widthOk w
  | .nop => true
  | .ldi _ _ => true
  | .ldih _ _ => true
  | .finit _ _ _ _ _ => true
  | .fcopy _ _ => true
  | .fclass _ _ => true
  | .crcclr => true
  | .crcf _ _ _ => true
  | .crcb _ _ _ => true
  | .crcrd _ => true
  | .crcchk _ => true
  | .ftob _ _ _ _ _ => true
  | .btof _ _ _ _ _ => true
  | .sqseg _ _ _ _ _ => true
  | .sqblk _ _ _ _ => true
  | .sqsend _ _ => true
  | .sqrecv _ _ => true
  | .sqbtx _ => true
  | .sqbrx _ => true
  | .sqback _ _ => true
  | .sqrel => true
  | .raopen _ _ _ _ => true
  | .raclose _ => true
  | .rafind _ _ _ => true
  | .racts _ _ _ => true
  | .ractstx _ _ _ => true
  | .radpo _ _ _ => true
  | .radt _ _ => true
  | .ratx _ _ => true

end Sys2Proof
end

