-- ==== Sys2Proof/Decode.lean ====
section
/-! DEFINITION. Decoding and encoding of command words (spec/30_encoding.md R110 to R132): the opcode numbers, the mask of
each row, the fields of each format, a decoder that is total on 32-bit words, and the encoder. -/

namespace Sys2Proof

/-! ## Opcodes (R125) -/

abbrev Opcode.nop : BitVec 6 := 0x00
abbrev Opcode.ldi : BitVec 6 := 0x01
abbrev Opcode.ldih : BitVec 6 := 0x02
abbrev Opcode.finit : BitVec 6 := 0x08
abbrev Opcode.fcopy : BitVec 6 := 0x09
abbrev Opcode.fgetb : BitVec 6 := 0x0A
abbrev Opcode.fputb : BitVec 6 := 0x0B
abbrev Opcode.fgetx : BitVec 6 := 0x0C
abbrev Opcode.fputx : BitVec 6 := 0x0D
abbrev Opcode.fclass : BitVec 6 := 0x0E
abbrev Opcode.crcclr : BitVec 6 := 0x10
abbrev Opcode.crcf : BitVec 6 := 0x11
abbrev Opcode.crcb : BitVec 6 := 0x12
abbrev Opcode.crcrd : BitVec 6 := 0x13
abbrev Opcode.crcchk : BitVec 6 := 0x14
abbrev Opcode.brd : BitVec 6 := 0x18
abbrev Opcode.bwr : BitVec 6 := 0x19
abbrev Opcode.ftob : BitVec 6 := 0x1A
abbrev Opcode.btof : BitVec 6 := 0x1B
abbrev Opcode.sqseg : BitVec 6 := 0x20
abbrev Opcode.sqblk : BitVec 6 := 0x21
abbrev Opcode.sqsend : BitVec 6 := 0x22
abbrev Opcode.sqrecv : BitVec 6 := 0x23
abbrev Opcode.sqbtx : BitVec 6 := 0x24
abbrev Opcode.sqbrx : BitVec 6 := 0x25
abbrev Opcode.sqback : BitVec 6 := 0x26
abbrev Opcode.sqrel : BitVec 6 := 0x27
abbrev Opcode.raopen : BitVec 6 := 0x28
abbrev Opcode.raclose : BitVec 6 := 0x29
abbrev Opcode.rafind : BitVec 6 := 0x2A
abbrev Opcode.racts : BitVec 6 := 0x2B
abbrev Opcode.ractstx : BitVec 6 := 0x2C
abbrev Opcode.radpo : BitVec 6 := 0x2D
abbrev Opcode.radt : BitVec 6 := 0x2E
abbrev Opcode.ratx : BitVec 6 := 0x2F

/-! ## One-bit fields (R113) -/

/-- f and g: frame register 0 or 1. -/
def FrameReg.ofBit (b : BitVec 1) : FrameReg := if b = 0#1 then .f0 else .f1

def FrameReg.bit : FrameReg → BitVec 1
  | .f0 => 0#1
  | .f1 => 1#1

/-- e: 0 big-endian, 1 little-endian. -/
def ByteOrder.ofBit (b : BitVec 1) : ByteOrder := if b = 0#1 then .be else .le

def ByteOrder.bit : ByteOrder → BitVec 1
  | .be => 0#1
  | .le => 1#1

/-- sp: 0 payload, 1 identifier. -/
def Space.ofBit (b : BitVec 1) : Space := if b = 0#1 then .payload else .ident

def Space.bit : Space → BitVec 1
  | .payload => 0#1
  | .ident => 1#1

/-- ext: 0 standard, 1 extended. -/
def IdFormat.ofBit (b : BitVec 1) : IdFormat := if b = 0#1 then .std else .ext

def IdFormat.bit : IdFormat → BitVec 1
  | .std => 0#1
  | .ext => 1#1

/-- dir: 0 TX, 1 RX. -/
def Dir.ofBit (b : BitVec 1) : Dir := if b = 0#1 then .tx else .rx

def Dir.bit : Dir → BitVec 1
  | .tx => 0#1
  | .rx => 1#1

/-- role: 0 CLIENT, 1 SERVER. -/
def Role.ofBit (b : BitVec 1) : Role := if b = 0#1 then .client else .server

def Role.bit : Role → BitVec 1
  | .client => 0#1
  | .server => 1#1

/-- A flag as one bit. -/
def flagBit (b : Bool) : BitVec 1 := if b then 1#1 else 0#1

/-! ## Fields of a command word (R111, R112, R113 and the format tables R114 to R124) -/

abbrev fieldOp (w : Word) : BitVec 6 := w.extractLsb' 26 6
abbrev fieldA (w : Word) : DReg := w.extractLsb' 23 3
abbrev fieldB (w : Word) : DReg := w.extractLsb' 20 3
abbrev fieldC (w : Word) : DReg := w.extractLsb' 17 3
abbrev fieldS (w : Word) : SlotNo := w.extractLsb' 14 3
abbrev bit13 (w : Word) : BitVec 1 := w.extractLsb' 13 1
abbrev bit12 (w : Word) : BitVec 1 := w.extractLsb' 12 1
abbrev bit11 (w : Word) : BitVec 1 := w.extractLsb' 11 1
abbrev fieldF (w : Word) : FrameReg := FrameReg.ofBit (bit13 w)
abbrev fieldImm16 (w : Word) : BitVec 16 := w.extractLsb' 0 16
/-- len of format FI, bits [11:8] (R116). -/
abbrev fieldLen (w : Word) : BitVec 4 := w.extractLsb' 8 4
/-- fill of format FI, bits [7:0] (R116). -/
abbrev fieldFill (w : Word) : Byte := w.extractLsb' 0 8
/-- off, fo or cs, bits [11:9] (R117, R119, R120, R122). -/
abbrev fieldOff (w : Word) : BitVec 3 := w.extractLsb' 9 3
/-- The byte width wm1 + 1, wm1 at bits [8:7] (R117, R120, R126). -/
abbrev fieldWidth (w : Word) : Nat := (w.extractLsb' 7 2).toNat + 1
/-- n of formats CF and BF, bits [8:5] (R119, R120). -/
abbrev fieldN (w : Word) : BitVec 4 := w.extractLsb' 5 4
/-- pos of format FX, bits [11:6] (R117). -/
abbrev fieldPos (w : Word) : BitVec 6 := w.extractLsb' 6 6
/-- The bit count nm1 + 1, nm1 at bits [5:1] (R117, R126). -/
abbrev fieldCount (w : Word) : Nat := (w.extractLsb' 1 5).toNat + 1

/-! ## The decoder (R128) -/

/-- The two illegal outcomes of decoding (R128). -/
inductive DecodeFault where
  /-- The opcode is not assigned (R130). -/
  | illegalOp
  /-- A reserved bit is set (R131). -/
  | illegalEnc
  deriving DecidableEq, Repr

/-- Step 2 of R128: with the row's mask, a set reserved bit makes the word illegal. -/
def reservedClear (w mask : Word) (i : Instr) : Except DecodeFault Instr :=
  if w &&& mask &&& 0x03FFFFFF#32 = 0#32 then .ok i else .error .illegalEnc

/-- Decoding a command word (R128): the opcode selects the row of R125, the row's mask its reserved bits. -/
def decode (w : Word) : Except DecodeFault Instr :=
  match (fieldOp w).toNat with
  | 0x00 => reservedClear w 0xFFFFFFFF#32 .nop
  | 0x01 => reservedClear w 0xFC7F0000#32 (.ldi (fieldA w) (fieldImm16 w))
  | 0x02 => reservedClear w 0xFC7F0000#32 (.ldih (fieldA w) (fieldImm16 w))
  | 0x08 => reservedClear w 0xFC7FC000#32 (.finit (fieldF w) (fieldA w) (IdFormat.ofBit (bit12 w)) (fieldLen w) (fieldFill w))
  | 0x09 => reservedClear w 0xFFFFCFFF#32 (.fcopy (fieldF w) (FrameReg.ofBit (bit12 w)))
  | 0x0A => reservedClear w 0xFC7FC07F#32 (.fgetb (ByteOrder.ofBit (bit12 w)) (fieldA w) (fieldF w) (fieldOff w) (fieldWidth w))
  | 0x0B => reservedClear w 0xFC7FC07F#32 (.fputb (ByteOrder.ofBit (bit12 w)) (fieldF w) (fieldOff w) (fieldWidth w) (fieldA w))
  | 0x0C => reservedClear w 0xFC7FC001#32 (.fgetx (fieldA w) (fieldF w) (Space.ofBit (bit12 w)) (fieldPos w) (fieldCount w))
  | 0x0D => reservedClear w 0xFC7FC001#32 (.fputx (fieldF w) (Space.ofBit (bit12 w)) (fieldPos w) (fieldCount w) (fieldA w))
  | 0x0E => reservedClear w 0xFC7FDFFF#32 (.fclass (fieldA w) (fieldF w))
  | 0x10 => reservedClear w 0xFFFFFFFF#32 .crcclr
  | 0x11 => reservedClear w 0xFFFFD01F#32 (.crcf (fieldF w) (fieldOff w) (fieldN w))
  | 0x12 => reservedClear w 0xFC0E3FFF#32 (.crcb (fieldS w) (fieldA w) (fieldB w))
  | 0x13 => reservedClear w 0xFC7FFFFF#32 (.crcrd (fieldA w))
  | 0x14 => reservedClear w 0xFC7FFFFF#32 (.crcchk (fieldA w))
  | 0x18 => reservedClear w 0xFC0E2E7F#32 (.brd (ByteOrder.ofBit (bit12 w)) (fieldA w) (fieldS w) (fieldB w) (fieldWidth w))
  | 0x19 => reservedClear w 0xFC0E2E7F#32 (.bwr (ByteOrder.ofBit (bit12 w)) (fieldS w) (fieldB w) (fieldWidth w) (fieldA w))
  | 0x1A => reservedClear w 0xFF8E101F#32 (.ftob (fieldS w) (fieldB w) (fieldF w) (fieldOff w) (fieldN w))
  | 0x1B => reservedClear w 0xFF8E101F#32 (.btof (fieldF w) (fieldOff w) (fieldN w) (fieldS w) (fieldB w))
  | 0x20 => reservedClear w 0xFC7E07FF#32 (.sqseg (fieldS w) (fieldA w) (Dir.ofBit (bit13 w)) (Role.ofBit (bit12 w)) (bit11 w == 1#1))
  | 0x21 => reservedClear w 0xFC0E1FFF#32 (.sqblk (fieldS w) (fieldA w) (fieldB w) (Dir.ofBit (bit13 w)))
  | 0x22 => reservedClear w 0xFFFFD1FF#32 (.sqsend (fieldF w) (fieldOff w))
  | 0x23 => reservedClear w 0xFFFFD1FF#32 (.sqrecv (fieldF w) (fieldOff w))
  | 0x24 => reservedClear w 0xFFFFDFFF#32 (.sqbtx (fieldF w))
  | 0x25 => reservedClear w 0xFFFFDFFF#32 (.sqbrx (fieldF w))
  | 0x26 => reservedClear w 0xFC0FFFFF#32 (.sqback (fieldA w) (fieldB w))
  | 0x27 => reservedClear w 0xFFFFFFFF#32 .sqrel
  | 0x28 => reservedClear w 0xFC003FFF#32 (.raopen (fieldS w) (fieldA w) (fieldB w) (fieldC w))
  | 0x29 => reservedClear w 0xFFFE3FFF#32 (.raclose (fieldS w))
  | 0x2A => reservedClear w 0xFC01FFFF#32 (.rafind (fieldA w) (fieldB w) (fieldC w))
  | 0x2B => reservedClear w 0xFC0E3FFF#32 (.racts (fieldS w) (fieldA w) (fieldB w))
  | 0x2C => reservedClear w 0xFC0E3FFF#32 (.ractstx (fieldS w) (fieldA w) (fieldB w))
  | 0x2D => reservedClear w 0xFC0E3FFF#32 (.radpo (fieldS w) (fieldA w) (fieldB w))
  | 0x2E => reservedClear w 0xFFFE1FFF#32 (.radt (fieldS w) (fieldF w))
  | 0x2F => reservedClear w 0xFFFE1FFF#32 (.ratx (fieldS w) (fieldF w))
  | _ => .error .illegalOp

/-! ## The encoder (R114 to R124, R129) -/

/-- Format Z (R114). -/
def encZ (op : BitVec 6) : Word := op ++ 0#26

/-- Format I (R115). -/
def encI (op : BitVec 6) (a : DReg) (imm : BitVec 16) : Word := op ++ a ++ 0#7 ++ imm

/-- Format FI (R116). -/
def encFI (op : BitVec 6) (a : DReg) (f : FrameReg) (fmt : IdFormat) (len : BitVec 4) (fill : Byte) : Word :=
  op ++ a ++ 0#9 ++ f.bit ++ fmt.bit ++ len ++ fill

/-- Format FC (R116). -/
def encFC (op : BitVec 6) (f g : FrameReg) : Word := op ++ 0#12 ++ f.bit ++ g.bit ++ 0#12

/-- wm1, the width minus 1 (R117, R120). -/
def encWidth (w : Nat) : BitVec 2 := BitVec.ofNat 2 (w - 1)

/-- nm1, the bit count minus 1 (R117). -/
def encCount (n : Nat) : BitVec 5 := BitVec.ofNat 5 (n - 1)

/-- Format FB (R117). -/
def encFB (op : BitVec 6) (a : DReg) (f : FrameReg) (e : ByteOrder) (off : BitVec 3) (w : Nat) : Word :=
  op ++ a ++ 0#9 ++ f.bit ++ e.bit ++ off ++ encWidth w ++ 0#7

/-- Format FX (R117). -/
def encFX (op : BitVec 6) (a : DReg) (f : FrameReg) (sp : Space) (pos : BitVec 6) (n : Nat) : Word :=
  op ++ a ++ 0#9 ++ f.bit ++ sp.bit ++ pos ++ encCount n ++ 0#1

/-- Format FK (R118). -/
def encFK (op : BitVec 6) (a : DReg) (f : FrameReg) : Word := op ++ a ++ 0#9 ++ f.bit ++ 0#13

/-- Format CF (R119). -/
def encCF (op : BitVec 6) (f : FrameReg) (off : BitVec 3) (n : BitVec 4) : Word :=
  op ++ 0#12 ++ f.bit ++ 0#1 ++ off ++ n ++ 0#5

/-- Format CB (R119). -/
def encCB (op : BitVec 6) (a b : DReg) (sl : SlotNo) : Word := op ++ a ++ b ++ 0#3 ++ sl ++ 0#14

/-- Format R1 (R119). -/
def encR1 (op : BitVec 6) (a : DReg) : Word := op ++ a ++ 0#23

/-- Format BM (R120). -/
def encBM (op : BitVec 6) (a b : DReg) (sl : SlotNo) (e : ByteOrder) (w : Nat) : Word :=
  op ++ a ++ b ++ 0#3 ++ sl ++ 0#1 ++ e.bit ++ 0#3 ++ encWidth w ++ 0#7

/-- Format BF (R120). -/
def encBF (op : BitVec 6) (b : DReg) (sl : SlotNo) (f : FrameReg) (fo : BitVec 3) (n : BitVec 4) : Word :=
  op ++ 0#3 ++ b ++ 0#3 ++ sl ++ f.bit ++ 0#1 ++ fo ++ n ++ 0#5

/-- Format SS (R121). -/
def encSS (op : BitVec 6) (a : DReg) (sl : SlotNo) (dir : Dir) (role : Role) (u : Bool) : Word :=
  op ++ a ++ 0#6 ++ sl ++ dir.bit ++ role.bit ++ flagBit u ++ 0#11

/-- Format SB (R121). -/
def encSB (op : BitVec 6) (a b : DReg) (sl : SlotNo) (dir : Dir) : Word :=
  op ++ a ++ b ++ 0#3 ++ sl ++ dir.bit ++ 0#13

/-- Format SF (R122). -/
def encSF (op : BitVec 6) (f : FrameReg) (cs : BitVec 3) : Word := op ++ 0#12 ++ f.bit ++ 0#1 ++ cs ++ 0#9

/-- Format SG (R122). -/
def encSG (op : BitVec 6) (f : FrameReg) : Word := op ++ 0#12 ++ f.bit ++ 0#13

/-- Format SK (R122). -/
def encSK (op : BitVec 6) (a b : DReg) : Word := op ++ a ++ b ++ 0#20

/-- Format RO (R123). -/
def encRO (op : BitVec 6) (a b c : DReg) (sl : SlotNo) : Word := op ++ a ++ b ++ c ++ sl ++ 0#14

/-- Format RS (R123). -/
def encRS (op : BitVec 6) (sl : SlotNo) : Word := op ++ 0#9 ++ sl ++ 0#14

/-- Format RF (R123). -/
def encRF (op : BitVec 6) (a b c : DReg) : Word := op ++ a ++ b ++ c ++ 0#17

/-- Format RW (R124). -/
def encRW (op : BitVec 6) (a b : DReg) (sl : SlotNo) : Word := op ++ a ++ b ++ 0#3 ++ sl ++ 0#14

/-- Format RD (R124). -/
def encRD (op : BitVec 6) (sl : SlotNo) (f : FrameReg) : Word := op ++ 0#9 ++ sl ++ f.bit ++ 0#13

/-- The one encoding of an instruction (R129), each by its row's format (R125). -/
def encode : Instr → Word
  | .nop => encZ Opcode.nop
  | .ldi a imm => encI Opcode.ldi a imm
  | .ldih a imm => encI Opcode.ldih a imm
  | .finit f a fmt len fill => encFI Opcode.finit a f fmt len fill
  | .fcopy f g => encFC Opcode.fcopy f g
  | .fgetb e a f off w => encFB Opcode.fgetb a f e off w
  | .fputb e f off w a => encFB Opcode.fputb a f e off w
  | .fgetx a f sp pos n => encFX Opcode.fgetx a f sp pos n
  | .fputx f sp pos n a => encFX Opcode.fputx a f sp pos n
  | .fclass a f => encFK Opcode.fclass a f
  | .crcclr => encZ Opcode.crcclr
  | .crcf f off n => encCF Opcode.crcf f off n
  | .crcb sl a b => encCB Opcode.crcb a b sl
  | .crcrd a => encR1 Opcode.crcrd a
  | .crcchk a => encR1 Opcode.crcchk a
  | .brd e a sl b w => encBM Opcode.brd a b sl e w
  | .bwr e sl b w a => encBM Opcode.bwr a b sl e w
  | .ftob sl b f fo n => encBF Opcode.ftob b sl f fo n
  | .btof f fo n sl b => encBF Opcode.btof b sl f fo n
  | .sqseg sl a dir role u => encSS Opcode.sqseg a sl dir role u
  | .sqblk sl a b dir => encSB Opcode.sqblk a b sl dir
  | .sqsend f cs => encSF Opcode.sqsend f cs
  | .sqrecv f cs => encSF Opcode.sqrecv f cs
  | .sqbtx f => encSG Opcode.sqbtx f
  | .sqbrx f => encSG Opcode.sqbrx f
  | .sqback a b => encSK Opcode.sqback a b
  | .sqrel => encZ Opcode.sqrel
  | .raopen sl a b c => encRO Opcode.raopen a b c sl
  | .raclose sl => encRS Opcode.raclose sl
  | .rafind a b c => encRF Opcode.rafind a b c
  | .racts sl a b => encRW Opcode.racts a b sl
  | .ractstx sl a b => encRW Opcode.ractstx a b sl
  | .radpo sl a b => encRW Opcode.radpo a b sl
  | .radt sl f => encRD Opcode.radt sl f
  | .ratx sl f => encRD Opcode.ratx sl f

/-- The opcode of each command (R125), the value STATUS.LASTOP takes (10_state.md R38). -/
def Instr.opcode : Instr → BitVec 6
  | .nop => Opcode.nop
  | .ldi _ _ => Opcode.ldi
  | .ldih _ _ => Opcode.ldih
  | .finit _ _ _ _ _ => Opcode.finit
  | .fcopy _ _ => Opcode.fcopy
  | .fgetb _ _ _ _ _ => Opcode.fgetb
  | .fputb _ _ _ _ _ => Opcode.fputb
  | .fgetx _ _ _ _ _ => Opcode.fgetx
  | .fputx _ _ _ _ _ => Opcode.fputx
  | .fclass _ _ => Opcode.fclass
  | .crcclr => Opcode.crcclr
  | .crcf _ _ _ => Opcode.crcf
  | .crcb _ _ _ => Opcode.crcb
  | .crcrd _ => Opcode.crcrd
  | .crcchk _ => Opcode.crcchk
  | .brd _ _ _ _ _ => Opcode.brd
  | .bwr _ _ _ _ _ => Opcode.bwr
  | .ftob _ _ _ _ _ => Opcode.ftob
  | .btof _ _ _ _ _ => Opcode.btof
  | .sqseg _ _ _ _ _ => Opcode.sqseg
  | .sqblk _ _ _ _ => Opcode.sqblk
  | .sqsend _ _ => Opcode.sqsend
  | .sqrecv _ _ => Opcode.sqrecv
  | .sqbtx _ => Opcode.sqbtx
  | .sqbrx _ => Opcode.sqbrx
  | .sqback _ _ => Opcode.sqback
  | .sqrel => Opcode.sqrel
  | .raopen _ _ _ _ => Opcode.raopen
  | .raclose _ => Opcode.raclose
  | .rafind _ _ _ => Opcode.rafind
  | .racts _ _ _ => Opcode.racts
  | .ractstx _ _ _ => Opcode.ractstx
  | .radpo _ _ _ => Opcode.radpo
  | .radt _ _ => Opcode.radt
  | .ratx _ _ => Opcode.ratx

/-- The instruction the decoder reads from a row's bits: the word written to CMD is the row's one 32-bit word (R110). -/
def decodeTableWord (nbits w : Nat) : Option Instr :=
  match decode (BitVec.ofNat 32 (w % 2 ^ nbits)) with
  | .ok i => some i
  | .error _ => none

end Sys2Proof
end

