-- ==== Sys2Proof/Config.lean ====
section
/-! DEFINITION. The build parameters of a CFU instance (spec/00_scope.md R5 to R10). They are fixed when the CFU is built:
no reset and no register changes them (spec/70_reset_and_hazards.md R380). -/

namespace Sys2Proof

/-- BLK_LAST_RULE (00_scope.md R9): when a block segment sent by the CFU carries the "last" flag. -/
inductive BlkLastRule where
  /-- PER_BLOCK: on the final segment of every block and of the payload. -/
  | perBlock
  /-- PAYLOAD_ONLY: on the final segment of the payload only. -/
  | payloadOnly
  deriving DecidableEq, Repr

/-- The parameters of one instance. CMD_LATENCY has no effect on results (70_reset_and_hazards.md R390) and is no field
(DEDUCED, safe, log entry 12). -/
structure Config where
  /-- NSLOT, the number of session slots (R5). -/
  nslot : Nat
  /-- RAB_CAP, the bytes of each slot's buffer (R6). -/
  rabCap : Nat
  /-- CRC_POLY (R7). -/
  crcPoly : BitVec 16
  /-- CRC_INIT (R8). -/
  crcInit : BitVec 16
  /-- BLK_LAST_RULE (R9). -/
  blkLastRule : BlkLastRule
  /-- ETP_CM_PF (R10). -/
  etpCmPf : Byte
  /-- ETP_DT_PF (R10). -/
  etpDtPf : Byte
  deriving DecidableEq, Repr

/-- The default instance (R5 to R10), the one every vector of spec/95_test_vectors.md uses. -/
def Config.default : Config where
  nslot := 4
  rabCap := 4096
  crcPoly := 0x1021
  crcInit := 0x0000
  blkLastRule := .perBlock
  etpCmPf := 0xEC
  etpDtPf := 0xEB

/-- The legal values: NSLOT in 1..8 (R5), RAB_CAP in 1785..16777215 (R6); the other parameters take any value of their width. -/
abbrev Config.wf (c : Config) : Prop :=
  1 ≤ c.nslot ∧ c.nslot ≤ 8 ∧ 1785 ≤ c.rabCap ∧ c.rabCap ≤ 16777215

end Sys2Proof
end

