-- ==== Sys2Proof/Machine/State.lean ====
section
/-! DEFINITION. The state of the machine as plain data: everything spec/10_state.md R30 lists, the instance's parameters,
and the host's side of the register window. Reset values are spec/70_reset_and_hazards.md R380's. -/

namespace Sys2Proof.Machine

/-- Why the machine stops with a fault. A CFU fault (60_exceptions.md R344) is no such stop: it is a next state
(DEDUCED, safe, log entry 7). -/
inductive Fault where
  /-- Raised by MemRead and MemWrite outside `s < NSLOT and off + n <= RAB_CAP`, where 00_scope.md R17 does not define
  them. No state that a run from reset reaches raises it. Safe: the model stops where the spec says nothing. -/
  | noSuchByte
  deriving DecidableEq, Repr

/-- Why the machine refuses an instruction. -/
inductive Refusal where
  /-- Raised by exec for an instruction that has no meaning yet; no arm of exec raises it now. Safe: it only stops. -/
  | notModelled (mnemonic : String)
  deriving DecidableEq, Repr

/-- One frame register (10_state.md R35). -/
structure Frame where
  /-- The CAN identifier; below 0x800 in a standard frame. -/
  id : BitVec 29
  /-- The ext bit: standard or extended. -/
  ext : IdFormat
  /-- The declared payload length, 0..8. -/
  len : Fin 9
  /-- The eight payload bytes; those at and above len lie outside the declared payload. -/
  data : Vector Byte 8
  deriving DecidableEq, Repr

/-- STATUS (10_state.md R38), the only flags of the CFU (R43). -/
structure Status where
  /-- Result code of the last command executed (R41). -/
  rc : BitVec 8
  /-- 1 when the CFU is faulted. -/
  flt : Bool
  /-- Fault cause (R42); 0 when flt is 0. -/
  cause : BitVec 8
  /-- Bits [31:26] of the last command word executed. -/
  lastop : BitVec 6
  deriving DecidableEq, Repr

/-- SEQ.mode (10_state.md R45). -/
inductive SeqMode where
  | idle | seg | blk | complete
  deriving DecidableEq, Repr

/-- The sequencer state SEQ (10_state.md R45). -/
structure Sequencer where
  mode : SeqMode
  dir : Dir
  role : Role
  /-- A SEG receive started without a declared size. -/
  unk : Bool
  /-- The toggle value of the current round. -/
  tog : Bool
  /-- The CFU's half of the current round is done. -/
  sent : Bool
  /-- The peer's half of the current round is done. -/
  rcvd : Bool
  /-- The current round's data segment carried c = 1. -/
  fin : Bool
  /-- In BLK mode, the current block has ended. -/
  bend : Bool
  slot : SlotNo
  /-- 7 minus the data bytes of the most recent data segment (90_conflicts.md C7). -/
  lastn : BitVec 3
  seqno : BitVec 7
  blksize : BitVec 7
  total : Word
  done : Word
  bstart : Word
  deriving DecidableEq, Repr

/-- SEQ with every field 0 (R45, R380). -/
def Sequencer.idle : Sequencer where
  mode := .idle
  dir := .tx
  role := .client
  unk := false
  tog := false
  sent := false
  rcvd := false
  fin := false
  bend := false
  slot := 0
  lastn := 0
  seqno := 0
  blksize := 0
  total := 0
  done := 0
  bstart := 0

/-- SL[s].state (10_state.md R50). -/
inductive SlotState where
  /-- FREE: no session. -/
  | free
  /-- OPEN: a J1939 session in progress. -/
  | opened
  /-- DONE: a J1939 session whose last packet was received or sent. -/
  | done
  /-- SEQ: bound to the sequencer. -/
  | seq
  deriving DecidableEq, Repr

/-- SL[s].mode (10_state.md R50). -/
inductive SlotMode where
  | rxBam | rxRts | txBam | txRts
  deriving DecidableEq, Repr

/-- SL[s].proto (10_state.md R50). -/
inductive Proto where
  | tp | etp
  deriving DecidableEq, Repr

/-- The record of one session slot but for its bytes (10_state.md R51). -/
structure Slot where
  state : SlotState
  mode : SlotMode
  proto : Proto
  /-- ETP: the current burst's DataPacketOffset is known. -/
  dpok : Bool
  sa : Byte
  da : Byte
  pgn : BitVec 24
  size : Word
  npkt : BitVec 24
  next : BitVec 24
  wstart : BitVec 24
  wcount : BitVec 8
  wrecv : BitVec 8
  dpo : BitVec 24
  deriving DecidableEq, Repr

/-- A slot record with every field 0: state FREE (R51, R380). -/
def Slot.free : Slot where
  state := .free
  mode := .rxBam
  proto := .tp
  dpok := false
  sa := 0
  da := 0
  pgn := 0
  size := 0
  npkt := 0
  next := 0
  wstart := 0
  wcount := 0
  wrecv := 0
  dpo := 0

/-- One slot's buffer bytes (10_state.md R55): the bytes that are not 0x00, by offset, offsets strictly rising. An offset
not listed reads 0x00, the reset contents R55 and R380 give (Machine/Ops.lean, `Memory.read` and `Memory.wf`). -/
abbrev Memory := List Host.Cell

/-- What the host (or the reset pin) may do next: 20_memory.md R103, 70_reset_and_hazards.md R380. Offsets are byte
offsets in the 4096-byte window (20_memory.md R80). -/
inductive HostAccess where
  /-- A host read of one register. -/
  | read (off : BitVec 12)
  /-- A host write of one register. -/
  | write (off : BitVec 12) (v : Word)
  /-- A hardware reset (DESIGN CHOICE, safe, log entry 10: it falls between two host accesses). -/
  | hardReset
  deriving DecidableEq, Repr

/-- The host's side of the window. The model's own (DESIGN CHOICE, safe, log entries 1 and 8): 10_state.md R44 keeps the
order of the commands as host state. -/
structure HostBus where
  /-- The accesses still to come, oldest first. -/
  pending : List HostAccess
  /-- What the host's reads were answered, oldest first. -/
  replies : List Word
  deriving DecidableEq, Repr

/-- The state of the machine (10_state.md R30), with the instance's parameters and the host's accesses. -/
structure State where
  /-- The build parameters; no step changes them (DESIGN CHOICE, safe, log entry 2). -/
  cfg : Config
  /-- D[0..7] (R33). -/
  d : Vector Word 8
  /-- F[0] (R35). -/
  f0 : Frame
  /-- F[1] (R35). -/
  f1 : Frame
  /-- The CRC accumulator (R40). -/
  crc : BitVec 16
  /-- STATUS (R38). -/
  status : Status
  /-- SEQ (R45). -/
  seq : Sequencer
  /-- SL[0..7] (R49, R51). Those at NSLOT and above do not exist and keep the reset value (DESIGN CHOICE, safe, log entry 3). -/
  slots : Vector Slot 8
  /-- The buffer bytes of each slot (R55). -/
  bufs : Vector Memory 8
  /-- The host's side of the register window. -/
  bus : HostBus
  deriving DecidableEq, Repr

/-- A frame register after reset (R380). -/
def Frame.reset : Frame where
  id := 0
  ext := .std
  len := 0
  data := Vector.replicate 8 0

/-- STATUS after reset (R380): RC = OK, FLT = 0, CAUSE = 0, LASTOP = 0. -/
def Status.reset : Status where
  rc := 0x00
  flt := false
  cause := 0x00
  lastop := 0

/-- The reset state of the instance c (70_reset_and_hazards.md R380), with no host access pending (R384). -/
def State.resetOf (c : Config) : State where
  cfg := c
  d := Vector.replicate 8 0
  f0 := Frame.reset
  f1 := Frame.reset
  crc := c.crcInit
  status := Status.reset
  seq := Sequencer.idle
  slots := Vector.replicate 8 Slot.free
  bufs := Vector.replicate 8 []
  bus := { pending := [], replies := [] }

/-- The machine right after reset: the default instance (00_scope.md R5 to R10) in the state of R380. -/
def State.reset : State := State.resetOf Config.default

end Sys2Proof.Machine
end

