-- ==== Sys2Proof/Machine/Flags.lean ====
section
/-! DEFINITION. The status codes: every result code and every fault cause (spec/10_state.md R41, R42), the STATUS word
(R38), and what a command writes into STATUS when it completes (spec/60_exceptions.md R346) or faults (R344). -/

namespace Sys2Proof.Machine

/-- The result codes of STATUS.RC (R41). -/
inductive ResultCode where
  | ok | complete | burstDone | blockEnd
  | invalid | csMismatch | toggleErr | seqDup | seqGap | outOfWindow | overrun | lengthErr
  | sizeErr | keyBusy | notFound | ambiguous | ctsErr | dpoErr | ackErr | crcMismatch
  | faulted
  deriving DecidableEq, Repr

/-- The number of each result code (R41). -/
def ResultCode.code : ResultCode → BitVec 8
  | .ok => 0x00
  | .complete => 0x01
  | .burstDone => 0x02
  | .blockEnd => 0x03
  | .invalid => 0x10
  | .csMismatch => 0x11
  | .toggleErr => 0x12
  | .seqDup => 0x13
  | .seqGap => 0x14
  | .outOfWindow => 0x15
  | .overrun => 0x16
  | .lengthErr => 0x17
  | .sizeErr => 0x18
  | .keyBusy => 0x19
  | .notFound => 0x1A
  | .ambiguous => 0x1B
  | .ctsErr => 0x1C
  | .dpoErr => 0x1D
  | .ackErr => 0x1E
  | .crcMismatch => 0x1F
  | .faulted => 0xFF

/-- The fault causes of STATUS.CAUSE (R42). -/
inductive FaultCause where
  | illegalOp | illegalEnc | fieldRange | idRange | slotRange | slotState | seqState | blksizeRange
  | bufRange | window | param
  deriving DecidableEq, Repr

/-- The number of each fault cause (R42). -/
def FaultCause.code : FaultCause → BitVec 8
  | .illegalOp => 0x01
  | .illegalEnc => 0x02
  | .fieldRange => 0x03
  | .idRange => 0x04
  | .slotRange => 0x05
  | .slotState => 0x06
  | .seqState => 0x07
  | .blksizeRange => 0x08
  | .bufRange => 0x09
  | .window => 0x0A
  | .param => 0x0B

/-- STATUS as a host read returns it (R38). -/
def Status.word (t : Status) : Word :=
  0#2 ++ t.lastop ++ t.cause ++ 0#7 ++ BitVec.ofBool t.flt ++ t.rc

/-- STATUS after a command of opcode op that returns the code c: RC and LASTOP are written, FLT and CAUSE kept (R346). -/
def Status.completed (t : Status) (op : BitVec 6) (c : ResultCode) : Status :=
  { t with rc := c.code, lastop := op }

/-- STATUS after fault entry by a command word of opcode op (R344). -/
def Status.faulted (op : BitVec 6) (c : FaultCause) : Status where
  rc := ResultCode.faulted.code
  flt := true
  cause := c.code
  lastop := op

end Sys2Proof.Machine
end

