-- ==== Sys2Proof/Machine/Ops.lean ====
section
/-! DEFINITION. The named operations over memory, registers and slots, the end of a command (spec/60_exceptions.md R346),
fault entry (R344, the CFU's exception) and soft reset (spec/70_reset_and_hazards.md R381, the only way out of it, R345). -/

namespace Sys2Proof.Machine

/-- What a command answers. -/
abbrev Result := Host.Outcome State Fault Refusal

/-! ## One slot's bytes -/

/-- The byte at an offset; an offset not listed reads 0x00 (10_state.md R55). -/
def Memory.read : Memory → Nat → Byte
  | [], _ => 0x00
  | (b, v) :: t, a => if b = a then v else Memory.read t a

/-- Write one byte, keeping the canonical form: writing 0x00 takes the entry out. -/
def Memory.write : Memory → Nat → Byte → Memory
  | [], a, v => if v = 0x00 then [] else [(a, v)]
  | (b, u) :: t, a, v =>
    if a < b then (if v = 0x00 then (b, u) :: t else (a, v) :: (b, u) :: t)
    else if a = b then (if v = 0x00 then t else (a, v) :: t)
    else (b, u) :: Memory.write t a v

/-- n bytes from offset a on (00_scope.md R17). -/
def Memory.readN (m : Memory) (a : Nat) : Nat → List Byte
  | 0 => []
  | n + 1 => m.read a :: Memory.readN m (a + 1) n

/-- The bytes bs to offset a on (00_scope.md R17). -/
def Memory.writeN (m : Memory) (a : Nat) : List Byte → Memory
  | [] => m
  | v :: t => Memory.writeN (m.write a v) (a + 1) t

/-- 0x00 to every offset below lim. -/
def Memory.clear (m : Memory) (lim : Nat) : Memory := m.filter (fun c => lim ≤ c.1)

/-- The canonical form from offset lo on: offsets strictly rising from lo, no byte 0x00. -/
def Memory.wfFrom (lo : Nat) : Memory → Bool
  | [] => true
  | (a, v) :: t => lo ≤ a && v != 0x00 && Memory.wfFrom (a + 1) t

/-- The canonical form: offsets strictly rising, and no entry equal to what an unlisted offset reads as. -/
def Memory.wf (m : Memory) : Bool := Memory.wfFrom 0 m

/-! ## Registers and slots -/

/-- D[r] (10_state.md R33). -/
def State.dreg (s : State) (r : DReg) : Word := s.d[r.toNat]'r.isLt

/-- D[r] <- v. -/
def State.setDreg (s : State) (r : DReg) (v : Word) : State := { s with d := s.d.set r.toNat v r.isLt }

/-- F[f] (10_state.md R35). -/
def State.frame (s : State) : FrameReg → Frame
  | .f0 => s.f0
  | .f1 => s.f1

/-- F[f] <- fr. -/
def State.setFrame (s : State) (f : FrameReg) (fr : Frame) : State :=
  match f with
  | .f0 => { s with f0 := fr }
  | .f1 => { s with f1 := fr }

/-- SL[sl] but for its bytes (10_state.md R51, R52). -/
def State.slot (s : State) (sl : SlotNo) : Slot := s.slots[sl.toNat]'sl.isLt

/-- SL[sl] <- r, the bytes unchanged. -/
def State.setSlot (s : State) (sl : SlotNo) (r : Slot) : State := { s with slots := s.slots.set sl.toNat r sl.isLt }

/-- The bytes of slot sl. -/
def State.buf (s : State) (sl : SlotNo) : Memory := s.bufs[sl.toNat]'sl.isLt

def State.setBuf (s : State) (sl : SlotNo) (m : Memory) : State := { s with bufs := s.bufs.set sl.toNat m sl.isLt }

/-- SEQ <- q. -/
def State.setSeq (s : State) (q : Sequencer) : State := { s with seq := q }

/-- CRC <- c. -/
def State.setCrc (s : State) (c : BitVec 16) : State := { s with crc := c }

/-- One byte of the buffer memory, the pair (slot, offset) (20_memory.md R80). -/
def State.byteAt (s : State) (sl : SlotNo) (a : Nat) : Byte := (s.buf sl).read a

/-! ## The memory primitives (00_scope.md R17) -/

/-- Where MemRead and MemWrite are defined: s < NSLOT and off + n <= RAB_CAP (R17). -/
abbrev State.inBuf (s : State) (sl : SlotNo) (off n : Nat) : Prop :=
  sl.toNat < s.cfg.nslot ∧ off + n ≤ s.cfg.rabCap

/-- MemRead((sl, off), n); none where it is not defined (DEDUCED, safe, log entry 5). -/
def State.memRead (s : State) (sl : SlotNo) (off n : Nat) : Option (List Byte) :=
  if s.inBuf sl off n then some ((s.buf sl).readN off n) else none

/-- MemWrite((sl, off), bs.length, bs); none where it is not defined (DEDUCED, safe, log entry 5). -/
def State.memWrite (s : State) (sl : SlotNo) (off : Nat) (bs : List Byte) : Option State :=
  if s.inBuf sl off bs.length then some (s.setBuf sl ((s.buf sl).writeN off bs)) else none

/-- MemWrite((sl, 0), RAB_CAP, RAB_CAP bytes of 0x00): the scrub of 42_sequencer.md R235 and 43_reassembly.md R261. -/
def State.scrub (s : State) (sl : SlotNo) : Option State :=
  if s.inBuf sl 0 s.cfg.rabCap then some (s.setBuf sl ((s.buf sl).clear s.cfg.rabCap)) else none

/-! ## Slot predicates -/

/-- rx_busy(sl): slot sl holds a receive that is not finished (00_scope.md R22). -/
def State.rxBusy (s : State) (sl : SlotNo) : Bool :=
  match (s.slot sl).state with
  | .opened => (s.slot sl).mode == .rxBam || (s.slot sl).mode == .rxRts
  | .seq => s.seq.dir == .rx && s.seq.mode != .complete
  | .free => false
  | .done => false

/-- A slot in state OPEN or DONE, the states that have a key (43_reassembly.md R250, R257). -/
def Slot.keyed (r : Slot) : Bool := r.state == .opened || r.state == .done

/-- The slot's key has this source and destination address. -/
def Slot.addressed (r : Slot) (sa da : Byte) : Bool := r.keyed && r.sa == sa && r.da == da

/-- The numbers of the slots that exist, lowest first. -/
def State.slotNos (s : State) : List Nat := List.range s.cfg.nslot

/-! ## The end of a command, fault entry and soft reset -/

/-- "Return c" of a command with opcode op (00_scope.md R20, 60_exceptions.md R346). -/
def State.completed (s : State) (op : BitVec 6) (c : ResultCode) : State :=
  { s with status := s.status.completed op c }

/-- The command with opcode op completes with code c. -/
def complete (op : BitVec 6) (c : ResultCode) (s : State) : Result := .next (s.completed op c)

/-- TAKING A FAULT (60_exceptions.md R344): STATUS is written and nothing else. There is no saved pc, no vector and no
mode to change (R349, R352). -/
def State.takeFault (s : State) (op : BitVec 6) (c : FaultCause) : State :=
  { s with status := Status.faulted op c }

/-- "raise Fault(c)" in a command with opcode op (00_scope.md R19). -/
def raiseFault (op : BitVec 6) (c : FaultCause) (s : State) : Result := .next (s.takeFault op c)

/-- LEAVING A FAULT: there is no return (R345); soft reset (70_reset_and_hazards.md R381) sets the whole state of the CFU
to its reset value. The parameters and the host's accesses are not the CFU's state (DEDUCED, safe, log entry 9). -/
def State.softReset (s : State) : State := { State.resetOf s.cfg with bus := s.bus }

end Sys2Proof.Machine
end

