-- ==== Sys2Proof/Machine/Operands.lean ====
section
/-! DEFINITION. The operand forms: byte fields in either order (spec/00_scope.md R18, spec/41_frame_unpacker.md R176), bit
fields of the payload word and of the identifier (R183, R184), byte ranges of a frame, the frames the protocol commands
build, and the packed data-register operands of the reassembly commands. -/

namespace Sys2Proof.Machine

/-! ## Byte lists and integers (00_scope.md R18) -/

/-- LE(b): the first byte is the least significant. -/
def leValue : List Byte → Nat
  | [] => 0
  | b :: t => b.toNat + 256 * leValue t

/-- BE(b): the first byte is the most significant. -/
def beValue (bs : List Byte) : Nat := leValue bs.reverse

/-- toLE(v, w). -/
def toLE (v : Nat) : Nat → List Byte
  | 0 => []
  | w + 1 => BitVec.ofNat 8 v :: toLE (v / 256) w

/-- toBE(v, w). -/
def toBE (v w : Nat) : List Byte := (toLE v w).reverse

/-- The value of a byte field read in the order e (R88, R176). -/
def fieldValue (e : ByteOrder) (bs : List Byte) : Word :=
  match e with
  | .be => BitVec.ofNat 32 (beValue bs)
  | .le => BitVec.ofNat 32 (leValue bs)

/-- The w bytes a byte field of value v is written as, in the order e (R88, R181); v's upper bits are dropped (R182). -/
def fieldBytes (e : ByteOrder) (v : Word) (w : Nat) : List Byte :=
  match e with
  | .be => toBE v.toNat w
  | .le => toLE v.toNat w

/-! ## Bit fields -/

/-- v[lo + n - 1 : lo], zero-extended to 32 bits (00_scope.md R12, R13). -/
def getBits {m : Nat} (v : BitVec m) (lo n : Nat) : Word := (v.extractLsb' lo n).setWidth 32

/-- v with bits lo + n - 1 down to lo replaced by the low n bits of x. -/
def putBits {m : Nat} (v : BitVec m) (lo n : Nat) (x : Word) : BitVec m :=
  (v &&& ~~~((BitVec.allOnes n).setWidth m <<< lo)) ||| ((x.setWidth n).setWidth m <<< lo)

/-- PW(f), the payload word, byte 0 most significant (00_scope.md R16). -/
def Frame.pw (fr : Frame) : BitVec 64 :=
  fr.data[0] ++ fr.data[1] ++ fr.data[2] ++ fr.data[3] ++ fr.data[4] ++ fr.data[5] ++ fr.data[6] ++ fr.data[7]

/-- The frame with payload word v: data[k] = v[63-8k : 56-8k] (R16). -/
def Frame.setPw (fr : Frame) (v : BitVec 64) : Frame :=
  { fr with data := #v[v.extractLsb' 56 8, v.extractLsb' 48 8, v.extractLsb' 40 8, v.extractLsb' 32 8,
                       v.extractLsb' 24 8, v.extractLsb' 16 8, v.extractLsb' 8 8, v.extractLsb' 0 8] }

/-- W, the identifier's width: 29 or 11 (41_frame_unpacker.md R170). -/
def Frame.idWidth (fr : Frame) : Nat :=
  match fr.ext with
  | .ext => 29
  | .std => 11

/-- The bit field with top bit pos and width n lies inside the declared payload (R183). -/
def Frame.payloadBitsOk (fr : Frame) (pos n : Nat) : Bool := n ≤ pos + 1 && 64 ≤ pos + 1 - n + 8 * fr.len.val

/-- The bit field with top bit pos and width n lies inside the identifier (R184). -/
def Frame.identBitsOk (fr : Frame) (pos n : Nat) : Bool := n ≤ pos + 1 && pos < fr.idWidth

/-! ## Byte ranges of a frame -/

/-- data[off .. off + n - 1]. -/
def Frame.bytes (fr : Frame) (off n : Nat) : List Byte := (fr.data.toList.drop off).take n

/-- bs put at data[off], data[off + 1], ...; nothing lies past data[7]. -/
def putBytes (v : Vector Byte 8) (off : Nat) : List Byte → Vector Byte 8
  | [] => v
  | b :: t => putBytes (v.setIfInBounds off b) (off + 1) t

/-- data[off .. off + bs.length - 1] <- bs. -/
def Frame.setBytes (fr : Frame) (off : Nat) (bs : List Byte) : Frame := { fr with data := putBytes fr.data off bs }

/-- The eight bytes of a frame a protocol command builds: b0, then bs, then padding (42_sequencer.md R207, R217,
43_reassembly.md R281). -/
def frameBytes (b0 : Byte) (bs : List Byte) (pad : Byte) : Vector Byte 8 :=
  #v[b0, bs.getD 0 pad, bs.getD 1 pad, bs.getD 2 pad, bs.getD 3 pad, bs.getD 4 pad, bs.getD 5 pad, bs.getD 6 pad]

/-- The frame register after a protocol command built a frame: len = 8, the identifier kept (41_frame_unpacker.md R171). -/
def Frame.produced (fr : Frame) (bytes : Vector Byte 8) : Frame := { fr with len := 8, data := bytes }

/-! ## Packed data-register operands -/

/-- RAOPEN's parameter word (43_reassembly.md R255): mode at [17:16]. -/
def prmMode (p : Word) : SlotMode :=
  match (p.extractLsb' 16 2).toNat with
  | 0 => .rxBam
  | 1 => .rxRts
  | 2 => .txBam
  | _ => .txRts

/-- RAOPEN's parameter word: proto at [18]. -/
def prmProto (p : Word) : Proto := if p.getLsbD 18 then .etp else .tp

/-- sa at [7:0] of RAOPEN's parameter word (R255) and of RAFIND's key (R264). -/
def keySa (p : Word) : Byte := p.extractLsb' 0 8

/-- da at [15:8] of RAOPEN's parameter word (R255) and of RAFIND's key (R264). -/
def keyDa (p : Word) : Byte := p.extractLsb' 8 8

/-- usepgn at [16] of RAFIND's key (R264). -/
def keyUsePgn (p : Word) : Bool := p.getLsbD 16

/-- A PGN operand's bits [23:0] (R254, R263). -/
def pgnBits (p : Word) : BitVec 24 := p.extractLsb' 0 24

/-- RAOPEN's reserved bits are 0: [31:24] of the PGN, [31:19] of the parameters (R254, R255). -/
def raParamsClear (pg prm : Word) : Bool := pg.extractLsb' 24 8 == 0#8 && prm.extractLsb' 19 13 == 0#13

/-- ceil(size / 7), the packet count (43_reassembly.md R251, R258). -/
def packetCount (size : Nat) : Nat := (size + 6) / 7

/-- The number of payload bytes of a packet or segment that starts at offset base of size bytes: min(7, size - base). -/
def chunkLen (size base : Nat) : Nat := min 7 (size - base)

end Sys2Proof.Machine
end

