-- ==== Sys2Proof/Machine/Buffer.lean ====
section
/-! DEFINITION. The buffer access commands BRD, BWR, FTOB, BTOF (spec/44_buffer.md). -/

namespace Sys2Proof.Machine

/-- BRD.BE|.LE Da, Ss[Db], w (R302). -/
def execBrd (e : ByteOrder) (a : DReg) (sl : SlotNo) (b : DReg) (w : Nat) (s : State) : Result :=
  if s.cfg.nslot ≤ sl.toNat then raiseFault Opcode.brd .slotRange s
  else if s.rxBusy sl then raiseFault Opcode.brd .slotState s
  else if s.cfg.rabCap < (s.dreg b).toNat + w then raiseFault Opcode.brd .bufRange s
  else
    match s.memRead sl (s.dreg b).toNat w with
    | none => .fault .noSuchByte
    | some bs => complete Opcode.brd .ok (s.setDreg a (fieldValue e bs))

/-- BWR.BE|.LE Ss[Db], w, Da (R305). -/
def execBwr (e : ByteOrder) (sl : SlotNo) (b : DReg) (w : Nat) (a : DReg) (s : State) : Result :=
  if s.cfg.nslot ≤ sl.toNat then raiseFault Opcode.bwr .slotRange s
  else if s.rxBusy sl then raiseFault Opcode.bwr .slotState s
  else if s.cfg.rabCap < (s.dreg b).toNat + w then raiseFault Opcode.bwr .bufRange s
  else
    match s.memWrite sl (s.dreg b).toNat (fieldBytes e (s.dreg a) w) with
    | none => .fault .noSuchByte
    | some s' => complete Opcode.bwr .ok s'

/-- FTOB Ss[Db], Ff, fo, n (R308). -/
def execFtob (sl : SlotNo) (b : DReg) (f : FrameReg) (fo : BitVec 3) (n : BitVec 4) (s : State) : Result :=
  if s.cfg.nslot ≤ sl.toNat then raiseFault Opcode.ftob .slotRange s
  else if 8 < n.toNat then raiseFault Opcode.ftob .fieldRange s
  else if (s.frame f).len.val < fo.toNat + n.toNat then raiseFault Opcode.ftob .fieldRange s
  else if s.rxBusy sl then raiseFault Opcode.ftob .slotState s
  else if s.cfg.rabCap < (s.dreg b).toNat + n.toNat then raiseFault Opcode.ftob .bufRange s
  else
    match s.memWrite sl (s.dreg b).toNat ((s.frame f).bytes fo.toNat n.toNat) with
    | none => .fault .noSuchByte
    | some s' => complete Opcode.ftob .ok s'

/-- BTOF Ff, fo, n, Ss[Db] (R311). -/
def execBtof (f : FrameReg) (fo : BitVec 3) (n : BitVec 4) (sl : SlotNo) (b : DReg) (s : State) : Result :=
  if s.cfg.nslot ≤ sl.toNat then raiseFault Opcode.btof .slotRange s
  else if 8 < n.toNat then raiseFault Opcode.btof .fieldRange s
  else if (s.frame f).len.val < fo.toNat + n.toNat then raiseFault Opcode.btof .fieldRange s
  else if s.rxBusy sl then raiseFault Opcode.btof .slotState s
  else if s.cfg.rabCap < (s.dreg b).toNat + n.toNat then raiseFault Opcode.btof .bufRange s
  else
    match s.memRead sl (s.dreg b).toNat n.toNat with
    | none => .fault .noSuchByte
    | some bs => complete Opcode.btof .ok (s.setFrame f ((s.frame f).setBytes fo.toNat bs))

end Sys2Proof.Machine
end

