-- ==== Sys2Proof/Machine/Crc.lean ====
section
/-! DEFINITION. The CRC-16 commands CRCCLR, CRCF, CRCB, CRCRD, CRCCHK (spec/45_crc.md). -/

namespace Sys2Proof.Machine

/-- One of the eight turns of crc_byte (R320). -/
def crcShift (poly c : BitVec 16) : BitVec 16 :=
  if c.getLsbD 15 then (c <<< 1) ^^^ poly else c <<< 1

/-- crcShift n times. -/
def crcShifts (poly : BitVec 16) : Nat → BitVec 16 → BitVec 16
  | 0, c => c
  | n + 1, c => crcShifts poly n (crcShift poly c)

/-- crc_byte(c, b) (R320). -/
def crcByte (poly c : BitVec 16) (b : Byte) : BitVec 16 :=
  crcShifts poly 8 (c ^^^ (b.setWidth 16 <<< 8))

/-- The accumulator c after a byte list is fed to it (R321). -/
def crcFeed (poly c : BitVec 16) (bs : List Byte) : BitVec 16 := bs.foldl (crcByte poly) c

/-- CRCCLR (R322). -/
def execCrcclr (s : State) : Result := complete Opcode.crcclr .ok (s.setCrc s.cfg.crcInit)

/-- CRCF Ff, off, n (R324). -/
def execCrcf (f : FrameReg) (off : BitVec 3) (n : BitVec 4) (s : State) : Result :=
  if 8 < n.toNat then raiseFault Opcode.crcf .fieldRange s
  else if (s.frame f).len.val < off.toNat + n.toNat then raiseFault Opcode.crcf .fieldRange s
  else complete Opcode.crcf .ok (s.setCrc (crcFeed s.cfg.crcPoly s.crc ((s.frame f).bytes off.toNat n.toNat)))

/-- CRCB Ss, Da, Db (R326): the offset in D[a], the count in D[b]. -/
def execCrcb (sl : SlotNo) (a b : DReg) (s : State) : Result :=
  if s.cfg.nslot ≤ sl.toNat then raiseFault Opcode.crcb .slotRange s
  else if s.rxBusy sl then raiseFault Opcode.crcb .slotState s
  else if s.cfg.rabCap < (s.dreg a).toNat + (s.dreg b).toNat then raiseFault Opcode.crcb .bufRange s
  else
    match s.memRead sl (s.dreg a).toNat (s.dreg b).toNat with
    | none => .fault .noSuchByte
    | some bs => complete Opcode.crcb .ok (s.setCrc (crcFeed s.cfg.crcPoly s.crc bs))

/-- CRCRD Da (R328). -/
def execCrcrd (a : DReg) (s : State) : Result := complete Opcode.crcrd .ok (s.setDreg a (s.crc.setWidth 32))

/-- CRCCHK Da (R330): bits [31:16] of D[a] are ignored. -/
def execCrcchk (a : DReg) (s : State) : Result :=
  if s.crc = (s.dreg a).extractLsb' 0 16 then complete Opcode.crcchk .ok s
  else complete Opcode.crcchk .crcMismatch s

end Sys2Proof.Machine
end

