-- ==== Sys2Proof/Machine/FrameUnit.lean ====
section
/-! DEFINITION. The frame unit commands FINIT, FCOPY, FGETB, FPUTB, FGETX, FPUTX, FCLASS (spec/41_frame_unpacker.md). -/

namespace Sys2Proof.Machine

/-- The identifier v is too wide for the format (R172). -/
def idTooWide (fmt : IdFormat) (v : Word) : Bool :=
  match fmt with
  | .std => 0x800 ≤ v.toNat
  | .ext => 0x20000000 ≤ v.toNat

/-- FINIT Ff, Da, STD|EXT, len, fill (R172). -/
def execFinit (f : FrameReg) (a : DReg) (fmt : IdFormat) (len : BitVec 4) (fill : Byte) (s : State) : Result :=
  if 8 < len.toNat then raiseFault Opcode.finit .fieldRange s
  else if idTooWide fmt (s.dreg a) then raiseFault Opcode.finit .idRange s
  else complete Opcode.finit .ok (s.setFrame f
    { id := (s.dreg a).extractLsb' 0 29, ext := fmt, len := Fin.ofNat 9 len.toNat, data := Vector.replicate 8 fill })

/-- FCOPY Ff, Fg (R175). -/
def execFcopy (f g : FrameReg) (s : State) : Result := complete Opcode.fcopy .ok (s.setFrame f (s.frame g))

/-- FGETB.BE|.LE Da, Ff, off, w (R178). -/
def execFgetb (e : ByteOrder) (a : DReg) (f : FrameReg) (off : BitVec 3) (w : Nat) (s : State) : Result :=
  if (s.frame f).len.val < off.toNat + w then raiseFault Opcode.fgetb .fieldRange s
  else complete Opcode.fgetb .ok (s.setDreg a (fieldValue e ((s.frame f).bytes off.toNat w)))

/-- FPUTB.BE|.LE Ff, off, w, Da (R181). -/
def execFputb (e : ByteOrder) (f : FrameReg) (off : BitVec 3) (w : Nat) (a : DReg) (s : State) : Result :=
  if (s.frame f).len.val < off.toNat + w then raiseFault Opcode.fputb .fieldRange s
  else complete Opcode.fputb .ok (s.setFrame f ((s.frame f).setBytes off.toNat (fieldBytes e (s.dreg a) w)))

/-- The bit field of FGETX and FPUTX lies inside its space (R183, R184). -/
def Frame.bitsOk (fr : Frame) (sp : Space) (pos n : Nat) : Bool :=
  match sp with
  | .payload => fr.payloadBitsOk pos n
  | .ident => fr.identBitsOk pos n

/-- The value of a bit field (R185). -/
def Frame.readBits (fr : Frame) (sp : Space) (pos n : Nat) : Word :=
  match sp with
  | .payload => getBits fr.pw (pos + 1 - n) n
  | .ident => getBits fr.id (pos + 1 - n) n

/-- The frame with a bit field replaced (R188). -/
def Frame.writeBits (fr : Frame) (sp : Space) (pos n : Nat) (x : Word) : Frame :=
  match sp with
  | .payload => fr.setPw (putBits fr.pw (pos + 1 - n) n x)
  | .ident => { fr with id := putBits fr.id (pos + 1 - n) n x }

/-- FGETX Da, Ff.P|Ff.ID, pos, n (R185). -/
def execFgetx (a : DReg) (f : FrameReg) (sp : Space) (pos : BitVec 6) (n : Nat) (s : State) : Result :=
  if (s.frame f).bitsOk sp pos.toNat n then
    complete Opcode.fgetx .ok (s.setDreg a ((s.frame f).readBits sp pos.toNat n))
  else raiseFault Opcode.fgetx .fieldRange s

/-- FPUTX Ff.P|Ff.ID, pos, n, Da (R188). -/
def execFputx (f : FrameReg) (sp : Space) (pos : BitVec 6) (n : Nat) (a : DReg) (s : State) : Result :=
  if (s.frame f).bitsOk sp pos.toNat n then
    complete Opcode.fputx .ok (s.setFrame f ((s.frame f).writeBits sp pos.toNat n (s.dreg a)))
  else raiseFault Opcode.fputx .fieldRange s

/-- The class code of an identifier (R192, R193): 0 OTHER, 1 SDO_REQ, 2 SDO_RSP, 3 TP_CM, 4 TP_DT, 5 ETP_CM, 6 ETP_DT. -/
def classCode (c : Config) (fmt : IdFormat) (id : BitVec 29) : Byte :=
  match fmt with
  | .std =>
    if 0x601 ≤ id.toNat ∧ id.toNat ≤ 0x67F then 1
    else if 0x581 ≤ id.toNat ∧ id.toNat ≤ 0x5FF then 2
    else 0
  | .ext =>
    if id.extractLsb' 24 2 = 0#2 then
      if id.extractLsb' 16 8 = 0xEC#8 then 3
      else if id.extractLsb' 16 8 = 0xEB#8 then 4
      else if id.extractLsb' 16 8 = c.etpCmPf then 5
      else if id.extractLsb' 16 8 = c.etpDtPf then 6
      else 0
    else 0

/-- D[a] after FCLASS (R192): y at [23:16], x at [15:8], the class at [7:0]. In the SDO classes x is the server id, that is
id - 0x600 or id - 0x580; in the J1939 classes x is the source and y the destination address. -/
def classWord (c : Config) (fr : Frame) : Word :=
  let cls := classCode c fr.ext fr.id
  match fr.ext with
  | .std =>
    if cls = 1 then 0#16 ++ BitVec.ofNat 8 (fr.id.toNat - 0x600) ++ cls
    else if cls = 2 then 0#16 ++ BitVec.ofNat 8 (fr.id.toNat - 0x580) ++ cls
    else 0
  | .ext =>
    if cls = 0 then 0
    else 0#8 ++ fr.id.extractLsb' 8 8 ++ fr.id.extractLsb' 0 8 ++ cls

/-- FCLASS Da, Ff (R192). -/
def execFclass (a : DReg) (f : FrameReg) (s : State) : Result :=
  complete Opcode.fclass .ok (s.setDreg a (classWord s.cfg (s.frame f)))

end Sys2Proof.Machine
end

