-- ==== Sys2Proof/Machine/General.lean ====
section
/-! DEFINITION. The general commands NOP, LDI, LDIH (spec/40_general.md). -/

namespace Sys2Proof.Machine

/-- NOP (R150). -/
def execNop (s : State) : Result := complete Opcode.nop .ok s

/-- LDI Da, imm16 (R152). -/
def execLdi (a : DReg) (imm : BitVec 16) (s : State) : Result :=
  complete Opcode.ldi .ok (s.setDreg a (imm.setWidth 32))

/-- LDIH Da, imm16 (R154): the low half of D[a] is kept. -/
def execLdih (a : DReg) (imm : BitVec 16) (s : State) : Result :=
  complete Opcode.ldih .ok (s.setDreg a (imm ++ (s.dreg a).extractLsb' 0 16))

end Sys2Proof.Machine
end

