-- ==== Sys2Proof/Machine/Reassembly.lean ====
section
/-! DEFINITION. The packet reassembly commands RAOPEN, RACLOSE, RAFIND, RACTS, RACTSTX, RADPO, RADT, RATX
(spec/43_reassembly.md). Sums and differences are written so that no difference of naturals is taken where the spec's
unbounded integers (spec/00_scope.md R14) could be negative; the exceptions are named in log entry 6
(DESIGN CHOICE, unsafe for statements about states that no run reaches). -/

namespace Sys2Proof.Machine

/-- The largest size of a session (R254, R256). -/
def maxSize (c : Config) (p : Proto) : Nat :=
  match p with
  | .tp => 1785
  | .etp => c.rabCap

/-- Another slot, OPEN or DONE, already has the key (R254, R257). -/
def State.keyBusy (s : State) (sl : SlotNo) (sa da : Byte) (pgn : BitVec 24) : Bool :=
  s.slotNos.any (fun t =>
    t != sl.toNat && (s.slot (BitVec.ofNat 3 t)).addressed sa da && (s.slot (BitVec.ofNat 3 t)).pgn == pgn)

/-- The record RAOPEN gives a slot (R254, R258). -/
def Slot.fresh (mode : SlotMode) (proto : Proto) (sa da : Byte) (pgn : BitVec 24) (size : Word) : Slot where
  state := .opened
  mode := mode
  proto := proto
  dpok := false
  sa := sa
  da := da
  pgn := pgn
  size := size
  npkt := BitVec.ofNat 24 (packetCount size.toNat)
  next := 1
  wstart := 1
  wcount := 0
  wrecv := 0
  dpo := 0

/-- A broadcast mode (R254: an ETP session has none). -/
def SlotMode.bam (m : SlotMode) : Bool := m == .rxBam || m == .txBam

/-- RAOPEN Ss, Da, Db, Dc (R254). -/
def execRaopen (sl : SlotNo) (a b c : DReg) (s : State) : Result :=
  let size := s.dreg a
  let pg := s.dreg b
  let prm := s.dreg c
  if s.cfg.nslot ≤ sl.toNat then raiseFault Opcode.raopen .slotRange s
  else if raParamsClear pg prm = false then raiseFault Opcode.raopen .param s
  else if prmProto prm = .etp ∧ (prmMode prm).bam = true then raiseFault Opcode.raopen .param s
  else if (s.slot sl).state ≠ .free then raiseFault Opcode.raopen .slotState s
  else if size.toNat = 0 ∨ maxSize s.cfg (prmProto prm) < size.toNat then complete Opcode.raopen .sizeErr s
  else if s.keyBusy sl (keySa prm) (keyDa prm) (pgnBits pg) then complete Opcode.raopen .keyBusy s
  else complete Opcode.raopen .ok
    (s.setSlot sl (Slot.fresh (prmMode prm) (prmProto prm) (keySa prm) (keyDa prm) (pgnBits pg) size))

/-- The slot is an open receive (R260, R275). -/
def Slot.receiving (r : Slot) : Bool := r.state == .opened && (r.mode == .rxBam || r.mode == .rxRts)

/-- The slot is an open send (R281). -/
def Slot.sending (r : Slot) : Bool := r.state == .opened && (r.mode == .txBam || r.mode == .txRts)

/-- RACLOSE Ss (R260): an unfinished receive is scrubbed (R261). -/
def execRaclose (sl : SlotNo) (s : State) : Result :=
  if s.cfg.nslot ≤ sl.toNat then raiseFault Opcode.raclose .slotRange s
  else if (s.slot sl).state = .free then complete Opcode.raclose .ok s
  else if (s.slot sl).state = .seq then raiseFault Opcode.raclose .slotState s
  else if (s.slot sl).receiving then
    match s.scrub sl with
    | none => .fault .noSuchByte
    | some s' => complete Opcode.raclose .ok (s'.setSlot sl Slot.free)
  else complete Opcode.raclose .ok (s.setSlot sl Slot.free)

/-- M of RAFIND, the numbers of the slots that match the key, lowest first (R263, R264). -/
def State.found (s : State) (k pg : Word) : List Nat :=
  s.slotNos.filter (fun t =>
    (s.slot (BitVec.ofNat 3 t)).addressed (keySa k) (keyDa k) &&
      (!keyUsePgn k || (s.slot (BitVec.ofNat 3 t)).pgn == pgnBits pg))

/-- RAFIND Da, Db, Dc (R263). -/
def execRafind (a b c : DReg) (s : State) : Result :=
  match s.found (s.dreg b) (s.dreg c) with
  | [] => complete Opcode.rafind .notFound (s.setDreg a 0xFFFFFFFF)
  | [t] => complete Opcode.rafind .ok (s.setDreg a (BitVec.ofNat 32 t))
  | t :: _ :: _ => complete Opcode.rafind .ambiguous (s.setDreg a (BitVec.ofNat 32 t))

/-- The count RACTS grants: min(offer, npkt - next + 1) (R266, R267). -/
def Slot.grant (r : Slot) (offer : BitVec 8) : BitVec 8 :=
  BitVec.ofNat 8 (min offer.toNat (r.npkt.toNat + 1 - r.next.toNat))

/-- RACTS Ss, Da, Db (R266). -/
def execRacts (sl : SlotNo) (a b : DReg) (s : State) : Result :=
  let r := s.slot sl
  if s.cfg.nslot ≤ sl.toNat then raiseFault Opcode.racts .slotRange s
  else if r.state ≠ .opened ∨ r.mode ≠ .rxRts then raiseFault Opcode.racts .slotState s
  else
    let cnt := r.grant ((s.dreg b).extractLsb' 0 8)
    complete Opcode.racts .ok
      ((s.setSlot sl { r with
          wstart := r.next, wcount := cnt, wrecv := 0
          dpok := if r.proto = .etp then false else r.dpok }).setDreg a (r.next ++ cnt))

/-- RACTSTX Ss, Da, Db (R269): the count in D[a], the next packet in D[b]. -/
def execRactstx (sl : SlotNo) (a b : DReg) (s : State) : Result :=
  let r := s.slot sl
  let cnt := (s.dreg a).toNat
  let nx := (s.dreg b).toNat
  if s.cfg.nslot ≤ sl.toNat then raiseFault Opcode.ractstx .slotRange s
  else if r.mode ≠ .txRts ∨ r.keyed = false then raiseFault Opcode.ractstx .slotState s
  else if cnt = 0 then complete Opcode.ractstx .ok (s.setSlot sl { r with wcount := 0, wrecv := 0 })
  else if 255 < cnt ∨ nx < 1 ∨ r.npkt.toNat + 1 < nx + cnt then complete Opcode.ractstx .ctsErr s
  else
    let r' := { r with
      next := BitVec.ofNat 24 nx, wstart := BitVec.ofNat 24 nx, wcount := BitVec.ofNat 8 cnt, wrecv := 0
      state := .opened }
    complete Opcode.ractstx .ok (s.setSlot sl
      (match r.proto with
       | .etp => { r' with dpo := BitVec.ofNat 24 (nx - 1), dpok := true }
       | .tp => r'))

/-- RADPO Ss, Da, Db (R272): the count in D[a], the offset in D[b]; the offset must be wstart - 1. -/
def execRadpo (sl : SlotNo) (a b : DReg) (s : State) : Result :=
  let r := s.slot sl
  let cnt := (s.dreg a).toNat
  let off := (s.dreg b).toNat
  if s.cfg.nslot ≤ sl.toNat then raiseFault Opcode.radpo .slotRange s
  else if r.state ≠ .opened ∨ r.mode ≠ .rxRts ∨ r.proto ≠ .etp then raiseFault Opcode.radpo .slotState s
  else if off + 1 ≠ r.wstart.toNat ∨ cnt < 1 ∨ r.wcount.toNat < cnt then complete Opcode.radpo .dpoErr s
  else complete Opcode.radpo .ok (s.setSlot sl
    { r with dpo := BitVec.ofNat 24 off, wcount := BitVec.ofNat 8 cnt, wrecv := 0, dpok := true })

/-- The number of a received packet with sequence byte q (R275): in an ETP session counted from the DPO's offset. -/
def Slot.rxPacket (r : Slot) (q : Byte) : Nat :=
  if r.mode = .rxRts ∧ r.proto = .etp then r.dpo.toNat + q.toNat else q.toNat

/-- No burst is open, or an ETP burst's DPO has not come (R275). -/
def Slot.windowShut (r : Slot) : Bool :=
  r.mode == .rxRts && (r.wcount.toNat == 0 || (r.proto == .etp && !r.dpok))

/-- Packet p is past the window of a receive (R252, R275): p > wstart + wcount - 1, or p > npkt in a broadcast. -/
def Slot.pastWindow (r : Slot) (p : Nat) : Bool :=
  match r.mode with
  | .rxRts => r.wstart.toNat + r.wcount.toNat ≤ p
  | _ => r.npkt.toNat < p

/-- The session after packet p was taken in or sent, and the code the command returns (R275, R281): clearDpok says that the
end of a burst clears dpok (R275; a send keeps it). -/
def Slot.advance (r : Slot) (p : Nat) (clearDpok : Bool) : Slot × ResultCode :=
  let rts := r.mode == .rxRts || r.mode == .txRts
  let r1 := { r with
    next := BitVec.ofNat 24 (p + 1)
    wrecv := if rts then BitVec.ofNat 8 (r.wrecv.toNat + 1) else r.wrecv }
  if r1.npkt.toNat < r1.next.toNat then ({ r1 with state := .done }, .complete)
  else if rts && r1.wrecv == r1.wcount then
    (if clearDpok && r1.proto == .etp then { r1 with dpok := false } else r1, .burstDone)
  else (r1, .ok)

/-- RADT Ss, Ff (R275). -/
def execRadt (sl : SlotNo) (f : FrameReg) (s : State) : Result :=
  let r := s.slot sl
  let q := (s.frame f).data[0]
  let p := r.rxPacket q
  if s.cfg.nslot ≤ sl.toNat then raiseFault Opcode.radt .slotRange s
  else if r.receiving = false then raiseFault Opcode.radt .slotState s
  else if (s.frame f).len ≠ 8 then complete Opcode.radt .invalid s
  else if q = 0 then complete Opcode.radt .invalid s
  else if r.windowShut then complete Opcode.radt .outOfWindow s
  else if r.pastWindow p then complete Opcode.radt .outOfWindow s
  else if p < r.next.toNat then complete Opcode.radt .seqDup s
  else if r.next.toNat < p then complete Opcode.radt .seqGap s
  else
    let base := (p - 1) * 7
    match s.memWrite sl base ((s.frame f).bytes 1 (chunkLen r.size.toNat base)) with
    | none => .fault .noSuchByte
    | some s' => complete Opcode.radt (r.advance p true).2 (s'.setSlot sl (r.advance p true).1)

/-- A flow-controlled send has no granted packet left (R281): wcount = 0, or next > wstart + wcount - 1. -/
def Slot.grantUsed (r : Slot) : Bool :=
  r.mode == .txRts && (r.wcount.toNat == 0 || r.wstart.toNat + r.wcount.toNat ≤ r.next.toNat)

/-- The sequence byte of packet p of a send (R273, R281). -/
def Slot.seqByte (r : Slot) (p : Nat) : Byte :=
  match r.proto with
  | .etp => BitVec.ofNat 8 (p - r.dpo.toNat)
  | .tp => BitVec.ofNat 8 p

/-- RATX Ss, Ff (R281). -/
def execRatx (sl : SlotNo) (f : FrameReg) (s : State) : Result :=
  let r := s.slot sl
  let p := r.next.toNat
  if s.cfg.nslot ≤ sl.toNat then raiseFault Opcode.ratx .slotRange s
  else if r.sending = false then raiseFault Opcode.ratx .slotState s
  else if r.grantUsed then raiseFault Opcode.ratx .window s
  else
    let base := (p - 1) * 7
    match s.memRead sl base (chunkLen r.size.toNat base) with
    | none => .fault .noSuchByte
    | some bs =>
      complete Opcode.ratx (r.advance p false).2
        ((s.setFrame f ((s.frame f).produced (frameBytes (r.seqByte p) bs 0xFF))).setSlot sl (r.advance p false).1)

end Sys2Proof.Machine
end

