-- ==== Sys2Proof/Machine/SequencerUnit.lean ====
section
/-! DEFINITION. The segmented frame sequencer commands SQSEG, SQBLK, SQSEND, SQRECV, SQBTX, SQBRX, SQBACK, SQREL
(spec/42_sequencer.md). -/

namespace Sys2Proof.Machine

/-- A declared size that is 0 or larger than RAB_CAP (R202, R204). -/
def sizeIllegal (c : Config) (size : Word) : Bool := size.toNat == 0 || c.rabCap < size.toNat

/-- A block size outside 1..127 (R204, R226). -/
def blksizeIllegal (nb : Word) : Bool := nb.toNat < 1 || 127 < nb.toNat

/-- SL[sl].state <- SEQ, the slot's other fields unchanged (R202, R204). -/
def State.bindSlot (s : State) (sl : SlotNo) : State := s.setSlot sl { s.slot sl with state := .seq }

/-- SQSEG Ss, Da, TX|RX, CLIENT|SERVER[, UNK] (R202). -/
def execSqseg (sl : SlotNo) (a : DReg) (dir : Dir) (role : Role) (u : Bool) (s : State) : Result :=
  if s.cfg.nslot ≤ sl.toNat then raiseFault Opcode.sqseg .slotRange s
  else if s.seq.mode ≠ .idle then raiseFault Opcode.sqseg .seqState s
  else if (s.slot sl).state ≠ .free then raiseFault Opcode.sqseg .slotState s
  else if dir = .tx ∧ u = true then raiseFault Opcode.sqseg .param s
  else if u = false ∧ sizeIllegal s.cfg (s.dreg a) then complete Opcode.sqseg .sizeErr s
  else complete Opcode.sqseg .ok ((s.setSeq
    { Sequencer.idle with
      mode := .seg, dir := dir, role := role, unk := u, slot := sl
      total := if u then 0 else s.dreg a }).bindSlot sl)

/-- SQBLK Ss, Da, Db, TX|RX (R204). -/
def execSqblk (sl : SlotNo) (a b : DReg) (dir : Dir) (s : State) : Result :=
  if s.cfg.nslot ≤ sl.toNat then raiseFault Opcode.sqblk .slotRange s
  else if s.seq.mode ≠ .idle then raiseFault Opcode.sqblk .seqState s
  else if (s.slot sl).state ≠ .free then raiseFault Opcode.sqblk .slotState s
  else if blksizeIllegal (s.dreg b) then raiseFault Opcode.sqblk .blksizeRange s
  else if sizeIllegal s.cfg (s.dreg a) then complete Opcode.sqblk .sizeErr s
  else complete Opcode.sqblk .ok ((s.setSeq
    { Sequencer.idle with
      mode := .blk, dir := dir, slot := sl
      blksize := (s.dreg b).setWidth 7, total := s.dreg a }).bindSlot sl)

/-- Byte 0 of a segment frame (R206): cs at [7:5], t at [4], n at [3:1], c at [0]. -/
def segByte0 (cs : BitVec 3) (t : Bool) (n : BitVec 3) (c : Bool) : Byte := cs ++ flagBit t ++ n ++ flagBit c

/-- The end of a round (R210). -/
def endRound (op : BitVec 6) (s : State) : Result :=
  let q := { s.seq with sent := false, rcvd := false, tog := !s.seq.tog }
  if s.seq.fin then complete op .complete (s.setSeq { q with mode := .complete })
  else complete op .ok (s.setSeq q)

/-- The last lines of SQSEND (R207): sent <- 1, and a SERVER's frame ends the round. -/
def sendHalf (s : State) : Result :=
  let s' := s.setSeq { s.seq with sent := true }
  match s.seq.role with
  | .server => endRound Opcode.sqsend s'
  | .client => complete Opcode.sqsend .ok s'

/-- The last lines of SQRECV (R211): rcvd <- 1, and a CLIENT's frame ends the round. -/
def recvHalf (s : State) : Result :=
  let s' := s.setSeq { s.seq with rcvd := true }
  match s.seq.role with
  | .client => endRound Opcode.sqrecv s'
  | .server => complete Opcode.sqrecv .ok s'

/-- It is not SQSEND's turn (R207, R215). -/
def sendOutOfTurn (q : Sequencer) : Bool :=
  q.mode != .seg || (q.role == .client && q.sent) || (q.role == .server && !q.rcvd)

/-- It is not SQRECV's turn (R211, R215). -/
def recvOutOfTurn (q : Sequencer) : Bool :=
  q.mode != .seg || (q.role == .client && !q.sent) || (q.role == .server && q.rcvd)

/-- SQSEND Ff, cs (R207). -/
def execSqsend (f : FrameReg) (cs : BitVec 3) (s : State) : Result :=
  if sendOutOfTurn s.seq then raiseFault Opcode.sqsend .seqState s
  else
    match s.seq.dir with
    | .tx =>
      let nd := chunkLen s.seq.total.toNat s.seq.done.toNat
      let c := s.seq.done.toNat + nd == s.seq.total.toNat
      match s.memRead s.seq.slot s.seq.done.toNat nd with
      | none => .fault .noSuchByte
      | some bs =>
        let head := segByte0 cs s.seq.tog (BitVec.ofNat 3 (7 - nd)) c
        let q := { s.seq with
          done := BitVec.ofNat 32 (s.seq.done.toNat + nd), fin := c, lastn := BitVec.ofNat 3 (7 - nd) }
        sendHalf ((s.setFrame f ((s.frame f).produced (frameBytes head bs 0x00))).setSeq q)
    | .rx =>
      let head := segByte0 cs s.seq.tog 0 false
      sendHalf (s.setFrame f ((s.frame f).produced (frameBytes head [] 0x00)))

/-- SQRECV Ff, cs (R211). -/
def execSqrecv (f : FrameReg) (cs : BitVec 3) (s : State) : Result :=
  if recvOutOfTurn s.seq then raiseFault Opcode.sqrecv .seqState s
  else if (s.frame f).len ≠ 8 then complete Opcode.sqrecv .invalid s
  else
    let h := (s.frame f).data[0]
    if h.extractLsb' 5 3 ≠ cs then complete Opcode.sqrecv .csMismatch s
    else if h.getLsbD 4 ≠ s.seq.tog then complete Opcode.sqrecv .toggleErr s
    else
      match s.seq.dir with
      | .tx => recvHalf s
      | .rx =>
        let n := h.extractLsb' 1 3
        let c := h.getLsbD 0
        let nd := 7 - n.toNat
        let limit := if s.seq.unk then s.cfg.rabCap else s.seq.total.toNat
        if limit < s.seq.done.toNat + nd then complete Opcode.sqrecv .overrun s
        else if c = true ∧ s.seq.unk = false ∧ s.seq.done.toNat + nd ≠ s.seq.total.toNat then
          complete Opcode.sqrecv .lengthErr s
        else
          match s.memWrite s.seq.slot s.seq.done.toNat ((s.frame f).bytes 1 nd) with
          | none => .fault .noSuchByte
          | some s' =>
            let done' := BitVec.ofNat 32 (s.seq.done.toNat + nd)
            recvHalf (s'.setSeq { s.seq with
              done := done', fin := c, lastn := n
              total := if c && s.seq.unk then done' else s.seq.total })

/-- Byte 0 of a block segment (R218): the last flag at [7], the sequence number at [6:0]. -/
def blkByte0 (last : Bool) (seq : BitVec 7) : Byte := flagBit last ++ seq

/-- The last flag of a segment the CFU sends (R219): blockEnd, the segment's number equals the block size; payloadEnd,
it ends the payload. -/
def lastFlag (r : BlkLastRule) (blockEnd payloadEnd : Bool) : Bool :=
  match r with
  | .perBlock => blockEnd || payloadEnd
  | .payloadOnly => payloadEnd

/-- SQBTX Ff (R217). -/
def execSqbtx (f : FrameReg) (s : State) : Result :=
  if s.seq.mode ≠ .blk ∨ s.seq.dir ≠ .tx ∨ s.seq.bend = true then raiseFault Opcode.sqbtx .seqState s
  else
    let seq := s.seq.seqno.toNat + 1
    let nd := chunkLen s.seq.total.toNat s.seq.done.toNat
    let payloadEnd := s.seq.done.toNat + nd == s.seq.total.toNat
    let blockEnd := seq == s.seq.blksize.toNat
    match s.memRead s.seq.slot s.seq.done.toNat nd with
    | none => .fault .noSuchByte
    | some bs =>
      let head := blkByte0 (lastFlag s.cfg.blkLastRule blockEnd payloadEnd) (BitVec.ofNat 7 seq)
      let ends := blockEnd || payloadEnd
      complete Opcode.sqbtx (if ends then .blockEnd else .ok)
        ((s.setFrame f ((s.frame f).produced (frameBytes head bs 0x00))).setSeq
          { s.seq with
            seqno := BitVec.ofNat 7 seq, done := BitVec.ofNat 32 (s.seq.done.toNat + nd)
            lastn := BitVec.ofNat 3 (7 - nd), bend := ends })

/-- SQBRX Ff (R221). -/
def execSqbrx (f : FrameReg) (s : State) : Result :=
  if s.seq.mode ≠ .blk ∨ s.seq.dir ≠ .rx ∨ s.seq.bend = true then raiseFault Opcode.sqbrx .seqState s
  else if (s.frame f).len ≠ 8 then complete Opcode.sqbrx .invalid s
  else
    let h := (s.frame f).data[0]
    let last := h.getLsbD 7
    let seq := h.extractLsb' 0 7
    if seq.toNat = 0 then complete Opcode.sqbrx .invalid s
    else if seq.toNat ≤ s.seq.seqno.toNat then complete Opcode.sqbrx .seqDup s
    else if s.seq.seqno.toNat + 1 < seq.toNat then complete Opcode.sqbrx .seqGap s
    else
      let nd := chunkLen s.seq.total.toNat s.seq.done.toNat
      match s.memWrite s.seq.slot s.seq.done.toNat ((s.frame f).bytes 1 nd) with
      | none => .fault .noSuchByte
      | some s' =>
        let ends := last || seq == s.seq.blksize || s.seq.done.toNat + nd == s.seq.total.toNat
        complete Opcode.sqbrx (if ends then .blockEnd else .ok)
          (s'.setSeq { s.seq with
            seqno := seq, done := BitVec.ofNat 32 (s.seq.done.toNat + nd)
            lastn := BitVec.ofNat 3 (7 - nd), bend := ends })

/-- SEQ.done after the acknowledgement ack (R226, R227): a send goes back to the first byte not acknowledged. -/
def ackedDone (q : Sequencer) (ack : Nat) : Word :=
  if q.dir = .tx ∧ ack < q.seqno.toNat then BitVec.ofNat 32 (q.bstart.toNat + 7 * ack) else q.done

/-- SQBACK Da, Db (R226). -/
def execSqback (a b : DReg) (s : State) : Result :=
  if s.seq.mode ≠ .blk then raiseFault Opcode.sqback .seqState s
  else if s.seq.dir = .tx ∧ s.seq.bend = false then raiseFault Opcode.sqback .seqState s
  else if blksizeIllegal (s.dreg b) then raiseFault Opcode.sqback .blksizeRange s
  else if s.seq.dir = .tx ∧ s.seq.seqno.toNat < (s.dreg a).toNat then complete Opcode.sqback .ackErr s
  else
    let done' := ackedDone s.seq (s.dreg a).toNat
    if done' = s.seq.total then
      complete Opcode.sqback .complete (s.setSeq { s.seq with done := done', mode := .complete })
    else
      complete Opcode.sqback .ok (s.setSeq { s.seq with
        done := done', bstart := done', seqno := 0, bend := false, blksize := (s.dreg b).setWidth 7 })

/-- SL[SEQ.slot] <- all fields 0 and SEQ <- all fields 0 (R234). -/
def State.release (s : State) : State := (s.setSlot s.seq.slot Slot.free).setSeq Sequencer.idle

/-- SQREL (R234): an unfinished receive is scrubbed (R235). -/
def execSqrel (s : State) : Result :=
  if s.seq.mode = .idle then complete Opcode.sqrel .ok s
  else if s.seq.dir = .rx ∧ s.seq.mode ≠ .complete then
    match s.scrub s.seq.slot with
    | none => .fault .noSuchByte
    | some s' => complete Opcode.sqrel .ok s'.release
  else complete Opcode.sqrel .ok s.release

end Sys2Proof.Machine
end

