-- ==== Sys2Proof/Machine/Dispatch.lean ====
section
/-! DEFINITION. One arm per command, each the direct call of its meaning. -/

namespace Sys2Proof.Machine

def exec (i : Instr) (s : State) : Host.Outcome State Fault Refusal :=
  match i with
  | .nop => Sys2Proof.Machine.execNop s
  | .ldi a imm => Sys2Proof.Machine.execLdi a imm s
  | .ldih a imm => Sys2Proof.Machine.execLdih a imm s
  | .finit f a fmt len fill => Sys2Proof.Machine.execFinit f a fmt len fill s
  | .fcopy f g => Sys2Proof.Machine.execFcopy f g s
  | .fgetb e a f off w => Sys2Proof.Machine.execFgetb e a f off w s
  | .fputb e f off w a => Sys2Proof.Machine.execFputb e f off w a s
  | .fgetx a f sp pos n => Sys2Proof.Machine.execFgetx a f sp pos n s
  | .fputx f sp pos n a => Sys2Proof.Machine.execFputx f sp pos n a s
  | .fclass a f => Sys2Proof.Machine.execFclass a f s
  | .crcclr => Sys2Proof.Machine.execCrcclr s
  | .crcf f off n => Sys2Proof.Machine.execCrcf f off n s
  | .crcb sl a b => Sys2Proof.Machine.execCrcb sl a b s
  | .crcrd a => Sys2Proof.Machine.execCrcrd a s
  | .crcchk a => Sys2Proof.Machine.execCrcchk a s
  | .brd e a sl b w => Sys2Proof.Machine.execBrd e a sl b w s
  | .bwr e sl b w a => Sys2Proof.Machine.execBwr e sl b w a s
  | .ftob sl b f fo n => Sys2Proof.Machine.execFtob sl b f fo n s
  | .btof f fo n sl b => Sys2Proof.Machine.execBtof f fo n sl b s
  | .sqseg sl a dir role u => Sys2Proof.Machine.execSqseg sl a dir role u s
  | .sqblk sl a b dir => Sys2Proof.Machine.execSqblk sl a b dir s
  | .sqsend f cs => Sys2Proof.Machine.execSqsend f cs s
  | .sqrecv f cs => Sys2Proof.Machine.execSqrecv f cs s
  | .sqbtx f => Sys2Proof.Machine.execSqbtx f s
  | .sqbrx f => Sys2Proof.Machine.execSqbrx f s
  | .sqback a b => Sys2Proof.Machine.execSqback a b s
  | .sqrel => Sys2Proof.Machine.execSqrel s
  | .raopen sl a b c => Sys2Proof.Machine.execRaopen sl a b c s
  | .raclose sl => Sys2Proof.Machine.execRaclose sl s
  | .rafind a b c => Sys2Proof.Machine.execRafind a b c s
  | .racts sl a b => Sys2Proof.Machine.execRacts sl a b s
  | .ractstx sl a b => Sys2Proof.Machine.execRactstx sl a b s
  | .radpo sl a b => Sys2Proof.Machine.execRadpo sl a b s
  | .radt sl f => Sys2Proof.Machine.execRadt sl f s
  | .ratx sl f => Sys2Proof.Machine.execRatx sl f s

end Sys2Proof.Machine
end

