-- ==== Sys2Proof/Machine/HostPort.lean ====
section
/-! DEFINITION. The host's side of the machine: the register window (spec/10_state.md R31 to R53, spec/20_memory.md R80 to
R85) and the execution of one command at a write of CMD (spec/60_exceptions.md R340, R341). -/

namespace Sys2Proof.Machine

/-- The eight registers of a slot group (R53). -/
inductive SlotReg where
  | ctl | pgn | size | npkt | next | win | wstart | dpo
  deriving DecidableEq, Repr

/-- The mapped registers of the window (R31). -/
inductive HostReg where
  | id | ctrl | status | cmd | crc
  | d (r : DReg)
  | fId (f : FrameReg) | fLen (f : FrameReg) | fDhi (f : FrameReg) | fDlo (f : FrameReg)
  | seqCtl | seqTotal | seqDone | seqBstart
  | slot (sl : SlotNo) (k : SlotReg)
  deriving DecidableEq, Repr

/-- The register of a slot group at word k of the group (R53). -/
def slotRegAt (k : Nat) : SlotReg :=
  match k with
  | 0 => .ctl
  | 1 => .pgn
  | 2 => .size
  | 3 => .npkt
  | 4 => .next
  | 5 => .win
  | 6 => .wstart
  | _ => .dpo

/-- The register at a byte offset, none where the offset is unmapped (R31, R53, R85); offset bits [1:0] are ignored (R81). -/
def regAt (c : Config) (off : BitVec 12) : Option HostReg :=
  let k := (off.extractLsb' 2 10).toNat
  match k with
  | 0 => some .id
  | 1 => some .ctrl
  | 2 => some .status
  | 3 => some .cmd
  | 4 => some .crc
  | 16 => some (.fId .f0)
  | 17 => some (.fLen .f0)
  | 18 => some (.fDhi .f0)
  | 19 => some (.fDlo .f0)
  | 20 => some (.fId .f1)
  | 21 => some (.fLen .f1)
  | 22 => some (.fDhi .f1)
  | 23 => some (.fDlo .f1)
  | 32 => some .seqCtl
  | 33 => some .seqTotal
  | 34 => some .seqDone
  | 35 => some .seqBstart
  | _ =>
    if 8 ≤ k ∧ k < 16 then some (.d (BitVec.ofNat 3 (k - 8)))
    else if 64 ≤ k ∧ k < 64 + 8 * min c.nslot 8 then
      some (.slot (BitVec.ofNat 3 ((k - 64) / 8)) (slotRegAt ((k - 64) % 8)))
    else none

/-! ## What a read returns -/

def SeqMode.bits : SeqMode → BitVec 2
  | .idle => 0
  | .seg => 1
  | .blk => 2
  | .complete => 3

def SlotState.bits : SlotState → BitVec 2
  | .free => 0
  | .opened => 1
  | .done => 2
  | .seq => 3

def SlotMode.bits : SlotMode → BitVec 2
  | .rxBam => 0
  | .rxRts => 1
  | .txBam => 2
  | .txRts => 3

def Proto.bit : Proto → BitVec 1
  | .tp => 0
  | .etp => 1

/-- Fn_ID (R36). -/
def Frame.idWord (fr : Frame) : Word := fr.ext.bit ++ 0#2 ++ fr.id

/-- Fn_LEN (R37). -/
def Frame.lenWord (fr : Frame) : Word := BitVec.ofNat 32 fr.len.val

/-- Fn_DHI (R39). -/
def Frame.dhiWord (fr : Frame) : Word := fr.data[0] ++ fr.data[1] ++ fr.data[2] ++ fr.data[3]

/-- Fn_DLO (R39). -/
def Frame.dloWord (fr : Frame) : Word := fr.data[4] ++ fr.data[5] ++ fr.data[6] ++ fr.data[7]

/-- SEQ_CTL (R46). -/
def Sequencer.ctlWord (q : Sequencer) : Word :=
  0#1 ++ q.blksize ++ 0#1 ++ q.seqno ++ q.lastn ++ q.slot ++ flagBit q.bend ++ flagBit q.fin ++ flagBit q.rcvd
    ++ flagBit q.sent ++ flagBit q.tog ++ flagBit q.unk ++ q.role.bit ++ q.dir.bit ++ q.mode.bits

/-- The registers of a slot group (R53). -/
def Slot.regWord (r : Slot) : SlotReg → Word
  | .ctl => 0#8 ++ r.da ++ r.sa ++ 0#2 ++ flagBit r.dpok ++ r.proto.bit ++ r.mode.bits ++ r.state.bits
  | .pgn => 0#8 ++ r.pgn
  | .size => r.size
  | .npkt => 0#8 ++ r.npkt
  | .next => 0#8 ++ r.next
  | .win => 0#16 ++ r.wrecv ++ r.wcount
  | .wstart => 0#8 ++ r.wstart
  | .dpo => 0#8 ++ r.dpo

/-- ID, a constant of the instance: [7:0] NSLOT, [31:8] RAB_CAP (R31). -/
def Config.idWord (c : Config) : Word := BitVec.ofNat 24 c.rabCap ++ BitVec.ofNat 8 c.nslot

/-- What a host read of a mapped register returns (R31, R83). -/
def State.regWord (s : State) : HostReg → Word
  | .id => Config.idWord s.cfg
  | .ctrl => 0
  | .status => s.status.word
  | .cmd => 0
  | .crc => s.crc.setWidth 32
  | .d r => s.dreg r
  | .fId f => (s.frame f).idWord
  | .fLen f => (s.frame f).lenWord
  | .fDhi f => (s.frame f).dhiWord
  | .fDlo f => (s.frame f).dloWord
  | .seqCtl => s.seq.ctlWord
  | .seqTotal => s.seq.total
  | .seqDone => s.seq.done
  | .seqBstart => s.seq.bstart
  | .slot sl k => (s.slot sl).regWord k

/-- What a host read at an offset returns; an unmapped offset reads 0 (R85). -/
def State.hostRead (s : State) (off : BitVec 12) : Word :=
  match regAt s.cfg off with
  | some g => s.regWord g
  | none => 0

/-! ## What a write does -/

/-- A host write of Fn_ID (R36): bits [30:29] are ignored, and a standard frame keeps 11 bits. -/
def Frame.writeId (fr : Frame) (v : Word) : Frame :=
  if v.getLsbD 31 then { fr with ext := .ext, id := v.extractLsb' 0 29 }
  else { fr with ext := .std, id := (v.extractLsb' 0 11).setWidth 29 }

/-- A host write of Fn_LEN (R37): 9..15 are stored as 8. -/
def Frame.writeLen (fr : Frame) (v : Word) : Frame :=
  { fr with len := Fin.ofNat 9 (min (v.extractLsb' 0 4).toNat 8) }

/-- A host write of Fn_DHI (k = 0) or Fn_DLO (k = 4) (R39). -/
def Frame.writeData (fr : Frame) (k : Nat) (v : Word) : Frame :=
  fr.setBytes k [v.extractLsb' 24 8, v.extractLsb' 16 8, v.extractLsb' 8 8, v.extractLsb' 0 8]

/-- A write of the word w to CMD (R340): ignored while the CFU is faulted (R341); otherwise decoded and run, the two decode
faults taken like every other. exec itself does not test FLT (DESIGN CHOICE, safe, log entry 13). -/
def runCommand (w : Word) (s : State) : Result :=
  if s.status.flt then .next s
  else
    match decode w with
    | .ok i => exec i s
    | .error .illegalOp => raiseFault (fieldOp w) .illegalOp s
    | .error .illegalEnc => raiseFault (fieldOp w) .illegalEnc s

/-- A host write of v to a mapped register (R31, R84). Read-only registers ignore it. -/
def writeReg (g : HostReg) (v : Word) (s : State) : Result :=
  match g with
  | .cmd => runCommand v s
  | .ctrl => .next (if v.getLsbD 0 then s.softReset else s)
  | .crc => .next (s.setCrc (v.extractLsb' 0 16))
  | .d r => .next (s.setDreg r v)
  | .fId f => .next (s.setFrame f ((s.frame f).writeId v))
  | .fLen f => .next (s.setFrame f ((s.frame f).writeLen v))
  | .fDhi f => .next (s.setFrame f ((s.frame f).writeData 0 v))
  | .fDlo f => .next (s.setFrame f ((s.frame f).writeData 4 v))
  | .id => .next s
  | .status => .next s
  | .seqCtl => .next s
  | .seqTotal => .next s
  | .seqDone => .next s
  | .seqBstart => .next s
  | .slot _ _ => .next s

/-- A host write at an offset; an unmapped offset ignores it (R85). -/
def hostWrite (off : BitVec 12) (v : Word) (s : State) : Result :=
  match regAt s.cfg off with
  | some g => writeReg g v s
  | none => .next s

/-! ## One access -/

/-- The host is answered v (R83). -/
def State.reply (s : State) (v : Word) : State := { s with bus := { s.bus with replies := s.bus.replies ++ [v] } }

/-- One access of the host, or a hardware reset (70_reset_and_hazards.md R380), which leaves what the soft reset does. -/
def runAccess (x : HostAccess) (s : State) : Result :=
  match x with
  | .read off => .next (s.reply (s.hostRead off))
  | .write off v => hostWrite off v s
  | .hardReset => .next s.softReset

/-- The state with the host's pending accesses replaced. -/
def State.withPending (s : State) (l : List HostAccess) : State := { s with bus := { s.bus with pending := l } }

/-- The host's next access, if one is pending, takes effect; otherwise the CFU is idle and keeps its state
(60_exceptions.md R359; DEDUCED, safe, log entry 4). -/
def stepOnce (s : State) : Result :=
  match s.bus.pending with
  | [] => .next s
  | x :: rest => runAccess x (s.withPending rest)

/-- The byte offset of CMD (10_state.md R31). -/
def cmdOffset : BitVec 12 := 0x00C

/-- s with a write of w to CMD as the host's next access: the CFU fetches nothing, its next command is the next word the
host writes to CMD (10_state.md R44; DESIGN CHOICE, safe, log entry 1). -/
def State.withCommand (s : State) (w : Word) : State := s.withPending (.write cmdOffset w :: s.bus.pending)

end Sys2Proof.Machine
end

