-- ==== Sys2Proof/Safety.lean ====
section
/-! DEFINITION. The words claims are made in: how a command ends, what it may change, the values the spec's rules give, and
the invariants of the machine (spec/10_state.md R35, R38, R48, R54, R55; spec/42_sequencer.md; spec/43_reassembly.md). -/

namespace Sys2Proof.Machine

/-! ## The opcode map (30_encoding.md R125) -/

/-- One row of the opcode map: the opcode and the mask of the bits that the row fixes. -/
structure OpcodeRow where
  op : BitVec 6
  mask : Word
  deriving DecidableEq, Repr

/-- match: the opcode in bits [31:26] and zeros elsewhere. -/
def OpcodeRow.matchWord (r : OpcodeRow) : Word := r.op ++ 0#26

def opcodeRowsA : List OpcodeRow :=
  [{ op := 0x00, mask := 0xFFFFFFFF } /- NOP -/,
   { op := 0x01, mask := 0xFC7F0000 } /- LDI -/,
   { op := 0x02, mask := 0xFC7F0000 } /- LDIH -/,
   { op := 0x08, mask := 0xFC7FC000 } /- FINIT -/,
   { op := 0x09, mask := 0xFFFFCFFF } /- FCOPY -/,
   { op := 0x0A, mask := 0xFC7FC07F } /- FGETB -/,
   { op := 0x0B, mask := 0xFC7FC07F } /- FPUTB -/]

def opcodeRowsB : List OpcodeRow :=
  [{ op := 0x0C, mask := 0xFC7FC001 } /- FGETX -/,
   { op := 0x0D, mask := 0xFC7FC001 } /- FPUTX -/,
   { op := 0x0E, mask := 0xFC7FDFFF } /- FCLASS -/,
   { op := 0x10, mask := 0xFFFFFFFF } /- CRCCLR -/,
   { op := 0x11, mask := 0xFFFFD01F } /- CRCF -/,
   { op := 0x12, mask := 0xFC0E3FFF } /- CRCB -/,
   { op := 0x13, mask := 0xFC7FFFFF } /- CRCRD -/]

def opcodeRowsC : List OpcodeRow :=
  [{ op := 0x14, mask := 0xFC7FFFFF } /- CRCCHK -/,
   { op := 0x18, mask := 0xFC0E2E7F } /- BRD -/,
   { op := 0x19, mask := 0xFC0E2E7F } /- BWR -/,
   { op := 0x1A, mask := 0xFF8E101F } /- FTOB -/,
   { op := 0x1B, mask := 0xFF8E101F } /- BTOF -/,
   { op := 0x20, mask := 0xFC7E07FF } /- SQSEG -/,
   { op := 0x21, mask := 0xFC0E1FFF } /- SQBLK -/]

def opcodeRowsD : List OpcodeRow :=
  [{ op := 0x22, mask := 0xFFFFD1FF } /- SQSEND -/,
   { op := 0x23, mask := 0xFFFFD1FF } /- SQRECV -/,
   { op := 0x24, mask := 0xFFFFDFFF } /- SQBTX -/,
   { op := 0x25, mask := 0xFFFFDFFF } /- SQBRX -/,
   { op := 0x26, mask := 0xFC0FFFFF } /- SQBACK -/,
   { op := 0x27, mask := 0xFFFFFFFF } /- SQREL -/,
   { op := 0x28, mask := 0xFC003FFF } /- RAOPEN -/]

def opcodeRowsE : List OpcodeRow :=
  [{ op := 0x29, mask := 0xFFFE3FFF } /- RACLOSE -/,
   { op := 0x2A, mask := 0xFC01FFFF } /- RAFIND -/,
   { op := 0x2B, mask := 0xFC0E3FFF } /- RACTS -/,
   { op := 0x2C, mask := 0xFC0E3FFF } /- RACTSTX -/,
   { op := 0x2D, mask := 0xFC0E3FFF } /- RADPO -/,
   { op := 0x2E, mask := 0xFFFE1FFF } /- RADT -/,
   { op := 0x2F, mask := 0xFFFE1FFF } /- RATX -/]

/-- The 35 rows of R125, in its order. -/
def opcodeRows : List OpcodeRow := opcodeRowsA ++ opcodeRowsB ++ opcodeRowsC ++ opcodeRowsD ++ opcodeRowsE

/-! ## How a command ends -/

/-- t is s after a command of opcode op returned c: STATUS.RC and LASTOP are written, FLT and CAUSE kept
(60_exceptions.md R346). -/
def State.returned (s t : State) (op : BitVec 6) (c : ResultCode) : Prop :=
  t.status = { rc := c.code, flt := s.status.flt, cause := s.status.cause, lastop := op }

/-- Command i at s is a fault with cause c: STATUS is written as 60_exceptions.md R344 says and nothing else changes. -/
def Faults (i : Instr) (c : FaultCause) (s : State) : Prop :=
  exec i s = .next { s with status := { rc := 0xFF, flt := true, cause := c.code, lastop := i.opcode } }

/-- Command i at s returns c and changes nothing but STATUS (00_scope.md R20). -/
def Refuses (i : Instr) (c : ResultCode) (s : State) : Prop :=
  exec i s = .next { s with status := { s.status with rc := c.code, lastop := i.opcode } }

/-- The result codes that are successes (10_state.md R41). -/
def ResultCode.success : ResultCode → Bool
  | .ok => true
  | .complete => true
  | .burstDone => true
  | .blockEnd => true
  | .invalid => false
  | .csMismatch => false
  | .toggleErr => false
  | .seqDup => false
  | .seqGap => false
  | .outOfWindow => false
  | .overrun => false
  | .lengthErr => false
  | .sizeErr => false
  | .keyBusy => false
  | .notFound => false
  | .ambiguous => false
  | .ctsErr => false
  | .dpoErr => false
  | .ackErr => false
  | .crcMismatch => false
  | .faulted => false

end Sys2Proof.Machine

namespace Sys2Proof
open Machine

/-- The result codes each command can return without a fault (60_exceptions.md R348). -/
def Instr.resultCodes : Instr → List ResultCode
  | .nop => [.ok]
  | .ldi _ _ => [.ok]
  | .ldih _ _ => [.ok]
  | .finit _ _ _ _ _ => [.ok]
  | .fcopy _ _ => [.ok]
  | .fgetb _ _ _ _ _ => [.ok]
  | .fputb _ _ _ _ _ => [.ok]
  | .fgetx _ _ _ _ _ => [.ok]
  | .fputx _ _ _ _ _ => [.ok]
  | .fclass _ _ => [.ok]
  | .crcclr => [.ok]
  | .crcf _ _ _ => [.ok]
  | .crcb _ _ _ => [.ok]
  | .crcrd _ => [.ok]
  | .crcchk _ => [.ok, .crcMismatch]
  | .brd _ _ _ _ _ => [.ok]
  | .bwr _ _ _ _ _ => [.ok]
  | .ftob _ _ _ _ _ => [.ok]
  | .btof _ _ _ _ _ => [.ok]
  | .sqseg _ _ _ _ _ => [.ok, .sizeErr]
  | .sqblk _ _ _ _ => [.ok, .sizeErr]
  | .sqsend _ _ => [.ok, .complete]
  | .sqrecv _ _ => [.ok, .complete, .invalid, .csMismatch, .toggleErr, .overrun, .lengthErr]
  | .sqbtx _ => [.ok, .blockEnd]
  | .sqbrx _ => [.ok, .blockEnd, .invalid, .seqDup, .seqGap]
  | .sqback _ _ => [.ok, .complete, .ackErr]
  | .sqrel => [.ok]
  | .raopen _ _ _ _ => [.ok, .sizeErr, .keyBusy]
  | .raclose _ => [.ok]
  | .rafind _ _ _ => [.ok, .notFound, .ambiguous]
  | .racts _ _ _ => [.ok]
  | .ractstx _ _ _ => [.ok, .ctsErr]
  | .radpo _ _ _ => [.ok, .dpoErr]
  | .radt _ _ => [.ok, .complete, .burstDone, .invalid, .outOfWindow, .seqDup, .seqGap]
  | .ratx _ _ => [.ok, .complete, .burstDone]

/-- The fault causes each command raises of its own (60_exceptions.md R347). -/
def Instr.faultCauses : Instr → List FaultCause
  | .nop => []
  | .ldi _ _ => []
  | .ldih _ _ => []
  | .finit _ _ _ _ _ => [.fieldRange, .idRange]
  | .fcopy _ _ => []
  | .fgetb _ _ _ _ _ => [.fieldRange]
  | .fputb _ _ _ _ _ => [.fieldRange]
  | .fgetx _ _ _ _ _ => [.fieldRange]
  | .fputx _ _ _ _ _ => [.fieldRange]
  | .fclass _ _ => []
  | .crcclr => []
  | .crcf _ _ _ => [.fieldRange]
  | .crcb _ _ _ => [.slotRange, .slotState, .bufRange]
  | .crcrd _ => []
  | .crcchk _ => []
  | .brd _ _ _ _ _ => [.slotRange, .slotState, .bufRange]
  | .bwr _ _ _ _ _ => [.slotRange, .slotState, .bufRange]
  | .ftob _ _ _ _ _ => [.slotRange, .fieldRange, .slotState, .bufRange]
  | .btof _ _ _ _ _ => [.slotRange, .fieldRange, .slotState, .bufRange]
  | .sqseg _ _ _ _ _ => [.slotRange, .seqState, .slotState, .param]
  | .sqblk _ _ _ _ => [.slotRange, .seqState, .slotState, .blksizeRange]
  | .sqsend _ _ => [.seqState]
  | .sqrecv _ _ => [.seqState]
  | .sqbtx _ => [.seqState]
  | .sqbrx _ => [.seqState]
  | .sqback _ _ => [.seqState, .blksizeRange]
  | .sqrel => []
  | .raopen _ _ _ _ => [.slotRange, .param, .slotState]
  | .raclose _ => [.slotRange, .slotState]
  | .rafind _ _ _ => []
  | .racts _ _ _ => [.slotRange, .slotState]
  | .ractstx _ _ _ => [.slotRange, .slotState]
  | .radpo _ _ _ => [.slotRange, .slotState]
  | .radt _ _ => [.slotRange, .slotState]
  | .ratx _ _ => [.slotRange, .slotState, .window]

/-- The slot a command names with its S field, if it has one (30_encoding.md R112). -/
def Instr.slotField : Instr → Option SlotNo
  | .nop => none
  | .ldi _ _ => none
  | .ldih _ _ => none
  | .finit _ _ _ _ _ => none
  | .fcopy _ _ => none
  | .fgetb _ _ _ _ _ => none
  | .fputb _ _ _ _ _ => none
  | .fgetx _ _ _ _ _ => none
  | .fputx _ _ _ _ _ => none
  | .fclass _ _ => none
  | .crcclr => none
  | .crcf _ _ _ => none
  | .crcb sl _ _ => some sl
  | .crcrd _ => none
  | .crcchk _ => none
  | .brd _ _ sl _ _ => some sl
  | .bwr _ sl _ _ _ => some sl
  | .ftob sl _ _ _ _ => some sl
  | .btof _ _ _ sl _ => some sl
  | .sqseg sl _ _ _ _ => some sl
  | .sqblk sl _ _ _ => some sl
  | .sqsend _ _ => none
  | .sqrecv _ _ => none
  | .sqbtx _ => none
  | .sqbrx _ => none
  | .sqback _ _ => none
  | .sqrel => none
  | .raopen sl _ _ _ => some sl
  | .raclose sl => some sl
  | .rafind _ _ _ => none
  | .racts sl _ _ => some sl
  | .ractstx sl _ _ => some sl
  | .radpo sl _ _ => some sl
  | .radt sl _ => some sl
  | .ratx sl _ => some sl

end Sys2Proof

namespace Sys2Proof.Machine

/-! ## What a command may change -/

/-- A range of buffer bytes: slot, first offset, number of bytes. -/
structure ByteRange where
  sl : SlotNo
  off : Nat
  n : Nat
  deriving DecidableEq, Repr

/-- The byte (x, o) lies in the range. -/
def ByteRange.holds (b : ByteRange) (x : SlotNo) (o : Nat) : Prop := x = b.sl ∧ b.off ≤ o ∧ o < b.off + b.n

/-- The places a command may change besides STATUS. -/
structure Footprint where
  dregs : List DReg := []
  frames : List FrameReg := []
  crc : Bool := false
  seq : Bool := false
  /-- Slot records (not their bytes). -/
  slots : List SlotNo := []
  bytes : List ByteRange := []
  deriving DecidableEq, Repr

/-- s and t agree on everything outside the footprint p, STATUS apart: the parameters, the host's accesses, every data
register, frame register, slot record and buffer byte, the CRC and SEQ. -/
structure State.KeepsOutside (s t : State) (p : Footprint) : Prop where
  cfg : t.cfg = s.cfg
  bus : t.bus = s.bus
  dregs : ∀ r, r ∉ p.dregs → t.dreg r = s.dreg r
  frames : ∀ f, f ∉ p.frames → t.frame f = s.frame f
  crc : p.crc = false → t.crc = s.crc
  seq : p.seq = false → t.seq = s.seq
  slots : ∀ x, x ∉ p.slots → t.slot x = s.slot x
  bytes : ∀ x o, (∀ b ∈ p.bytes, ¬ b.holds x o) → t.byteAt x o = s.byteAt x o

/-- The bytes SQRECV may store (42_sequencer.md R211): 7 - n bytes at SEQ.done, in a receive. -/
def State.recvRange (s : State) (f : FrameReg) : List ByteRange :=
  match s.seq.dir with
  | .tx => []
  | .rx => [{ sl := s.seq.slot, off := s.seq.done.toNat, n := 7 - ((s.frame f).data[0].extractLsb' 1 3).toNat }]

/-- The bytes SQREL overwrites (42_sequencer.md R234): the whole slot of an unfinished receive. -/
def State.relRange (s : State) : List ByteRange :=
  if s.seq.dir = .rx ∧ s.seq.mode ≠ .complete then [{ sl := s.seq.slot, off := 0, n := s.cfg.rabCap }] else []

/-- The bytes RACLOSE overwrites (43_reassembly.md R260): the whole slot of an unfinished receive. -/
def State.closeRange (s : State) (sl : SlotNo) : List ByteRange :=
  if (s.slot sl).receiving then [{ sl := sl, off := 0, n := s.cfg.rabCap }] else []

/-- The offset of packet p of a session (43_reassembly.md R251). -/
def packetBase (p : Nat) : Nat := (p - 1) * 7

/-- The bytes RADT stores (43_reassembly.md R275): those of the next packet. -/
def State.packetRange (s : State) (sl : SlotNo) : ByteRange where
  sl := sl
  off := packetBase (s.slot sl).next.toNat
  n := chunkLen (s.slot sl).size.toNat (packetBase (s.slot sl).next.toNat)

end Sys2Proof.Machine

namespace Sys2Proof
open Machine

/-- What each command may change (10_state.md R33, R40, R47; 20_memory.md R82, R102; 41_frame_unpacker.md R171 and the
command's own rule). -/
def Instr.footprint (s : State) : Instr → Footprint
  | .nop => {}
  | .ldi a _ => { dregs := [a] }
  | .ldih a _ => { dregs := [a] }
  | .finit f _ _ _ _ => { frames := [f] }
  | .fcopy f _ => { frames := [f] }
  | .fgetb _ a _ _ _ => { dregs := [a] }
  | .fputb _ f _ _ _ => { frames := [f] }
  | .fgetx a _ _ _ _ => { dregs := [a] }
  | .fputx f _ _ _ _ => { frames := [f] }
  | .fclass a _ => { dregs := [a] }
  | .crcclr => { crc := true }
  | .crcf _ _ _ => { crc := true }
  | .crcb _ _ _ => { crc := true }
  | .crcrd a => { dregs := [a] }
  | .crcchk _ => {}
  | .brd _ a _ _ _ => { dregs := [a] }
  | .bwr _ sl b w _ => { bytes := [{ sl := sl, off := (s.dreg b).toNat, n := w }] }
  | .ftob sl b _ _ n => { bytes := [{ sl := sl, off := (s.dreg b).toNat, n := n.toNat }] }
  | .btof f _ _ _ _ => { frames := [f] }
  | .sqseg sl _ _ _ _ => { seq := true, slots := [sl] }
  | .sqblk sl _ _ _ => { seq := true, slots := [sl] }
  | .sqsend f _ => { frames := [f], seq := true }
  | .sqrecv f _ => { seq := true, bytes := s.recvRange f }
  | .sqbtx f => { frames := [f], seq := true }
  | .sqbrx _ =>
    { seq := true
      bytes := [{ sl := s.seq.slot, off := s.seq.done.toNat, n := chunkLen s.seq.total.toNat s.seq.done.toNat }] }
  | .sqback _ _ => { seq := true }
  | .sqrel => if s.seq.mode = .idle then {} else { seq := true, slots := [s.seq.slot], bytes := s.relRange }
  | .raopen sl _ _ _ => { slots := [sl] }
  | .raclose sl => { slots := [sl], bytes := s.closeRange sl }
  | .rafind a _ _ => { dregs := [a] }
  | .racts sl a _ => { dregs := [a], slots := [sl] }
  | .ractstx sl _ _ => { slots := [sl] }
  | .radpo sl _ _ => { slots := [sl] }
  | .radt sl _ => { slots := [sl], bytes := [s.packetRange sl] }
  | .ratx sl f => { frames := [f], slots := [sl] }

end Sys2Proof

namespace Sys2Proof.Machine

/-! ## The values of the spec's rules -/

/-- data[k] of a frame, 0 <= k <= 7. -/
def Frame.byte (fr : Frame) (k : Nat) : Byte := fr.data.toList.getD k 0

/-- Bit j of the payload word (00_scope.md R16): bit 63 is bit 7 of data[0], bit 0 is bit 0 of data[7]. -/
def Frame.payloadBit (fr : Frame) (j : Nat) : Bool := (fr.byte (7 - j / 8)).getLsbD (j % 8)

/-- The bit field with top bit pos and width n is legal: inside the declared payload (41_frame_unpacker.md R183) or inside
the identifier (R184). -/
def Frame.FieldLegal (fr : Frame) (sp : Space) (pos n : Nat) : Prop :=
  n ≤ pos + 1 ∧
    match sp with
    | .payload => 64 - 8 * fr.len.val ≤ pos + 1 - n
    | .ident => pos < match fr.ext with | .ext => 29 | .std => 11

/-- Bit j of the payload word or of the identifier. -/
def Frame.spaceBit (fr : Frame) (sp : Space) (j : Nat) : Bool :=
  match sp with
  | .payload => fr.payloadBit j
  | .ident => fr.id.getLsbD j

/-- rx_busy(sl) (00_scope.md R22). -/
def State.RxBusy (s : State) (sl : SlotNo) : Prop :=
  ((s.slot sl).state = .opened ∧ ((s.slot sl).mode = .rxBam ∨ (s.slot sl).mode = .rxRts)) ∨
    ((s.slot sl).state = .seq ∧ s.seq.dir = .rx ∧ s.seq.mode ≠ .complete)

/-- BE of the w bytes b 0, b 1, ... (00_scope.md R18). -/
def beSum (b : Nat → Byte) (w : Nat) : Nat := ∑ i ∈ Finset.range w, (b i).toNat * 256 ^ (w - 1 - i)

/-- LE of the w bytes b 0, b 1, ... (00_scope.md R18). -/
def leSum (b : Nat → Byte) (w : Nat) : Nat := ∑ i ∈ Finset.range w, (b i).toNat * 256 ^ i

/-- The value of a byte field in the order e (41_frame_unpacker.md R176; 20_memory.md R88). -/
def fieldSum (e : ByteOrder) (b : Nat → Byte) (w : Nat) : Nat :=
  match e with
  | .be => beSum b w
  | .le => leSum b w

/-- new is the frame a protocol command built in a frame register that held old (42_sequencer.md R207, R217;
43_reassembly.md R281): byte 0 has value b0, bytes 1 to nd are b 0, b 1, ..., the rest is pad; len is 8; the identifier is
kept (41_frame_unpacker.md R171). -/
structure Frame.Built (old new : Frame) (b0 nd : Nat) (b : Nat → Byte) (pad : Byte) : Prop where
  id : new.id = old.id
  ext : new.ext = old.ext
  len : new.len = 8
  head : (new.byte 0).toNat = b0
  payload : ∀ k, k < nd → new.byte (1 + k) = b k
  padding : ∀ k, nd < k → k < 8 → new.byte k = pad

/-- One turn of the loop of crc_byte on integers (45_crc.md R320). -/
def crcTurn (poly c : Nat) : Nat :=
  if c / 0x8000 % 2 = 1 then (c * 2 ^^^ poly) % 0x10000 else c * 2 % 0x10000

/-! ## Invariants -/

/-- A standard frame's identifier has 11 bits (10_state.md R35). -/
structure State.FramesOk (s : State) : Prop where
  std_id : ∀ f, (s.frame f).ext = .std → (s.frame f).id.toNat < 0x800

/-- STATUS holds a listed result code and a listed cause (10_state.md R38, R41, R42). -/
structure State.StatusOk (s : State) : Prop where
  known_rc : ∃ c : ResultCode, s.status.rc = c.code
  ready : s.status.flt = false → s.status.cause = 0 ∧ s.status.rc ≠ 0xFF
  faulted : s.status.flt = true → s.status.rc = 0xFF ∧ ∃ c : FaultCause, s.status.cause = c.code

/-- Every slot's bytes are in canonical form and inside the buffer memory (10_state.md R55). -/
structure State.MemOk (s : State) : Prop where
  canonical : ∀ x, (s.buf x).wf = true
  inside : ∀ x c, c ∈ s.buf x → x.toNat < s.cfg.nslot ∧ c.1 < s.cfg.rabCap

/-- The link of SEQ and its slot (10_state.md R48). -/
structure State.BindOk (s : State) : Prop where
  bound : s.seq.mode ≠ .idle → (s.slot s.seq.slot).state = .seq
  only : ∀ x, (s.slot x).state = .seq → s.seq.mode ≠ .idle ∧ x = s.seq.slot
  idle : s.seq.mode = .idle → s.seq = Sequencer.idle

/-- No two sessions have the same key (43_reassembly.md R257). -/
structure State.KeysOk (s : State) : Prop where
  distinct : ∀ x y, x ≠ y → (s.slot x).keyed = true → (s.slot y).keyed = true →
    ¬ ((s.slot x).sa = (s.slot y).sa ∧ (s.slot x).da = (s.slot y).da ∧ (s.slot x).pgn = (s.slot y).pgn)

/-- A session's record (10_state.md R54; 43_reassembly.md R252, R256, R258, R267, R273). -/
structure Slot.SessionOk (c : Config) (r : Slot) : Prop where
  size_pos : 1 ≤ r.size.toNat
  size_le : r.size.toNat ≤ c.rabCap
  tp_size : r.proto = .tp → r.size.toNat ≤ 1785
  npkt : r.npkt.toNat = packetCount r.size.toNat
  next_pos : 1 ≤ r.next.toNat
  next_le : r.next.toNat ≤ r.npkt.toNat + 1
  done_iff : r.state = .done ↔ r.next.toNat = r.npkt.toNat + 1
  wrecv_le : r.wrecv.toNat ≤ r.wcount.toNat
  start_pos : 1 ≤ r.wstart.toNat
  window_le : r.wstart.toNat + r.wcount.toNat ≤ r.npkt.toNat + 1
  taken_le : r.wstart.toNat + r.wrecv.toNat ≤ r.next.toNat
  etp_mode : r.proto = .etp → r.mode.bam = false
  bam_window : r.mode.bam = true → r.wcount = 0 ∧ r.wrecv = 0 ∧ r.wstart = 1
  dpo_law : r.dpok = true → r.proto = .etp ∧ r.dpo.toNat + 1 = r.wstart.toNat
  granted : r.proto = .etp → r.mode = .txRts → 1 ≤ r.wcount.toNat → r.dpok = true

/-- A slot record (10_state.md R54). -/
structure Slot.Ok (c : Config) (r : Slot) : Prop where
  free : r.state = .free → r = Slot.free
  seq : r.state = .seq → r = { Slot.free with state := .seq }
  session : r.keyed = true → r.SessionOk c

/-- SEQ in a segmented transfer (42_sequencer.md R200 to R215). -/
structure Sequencer.SegOk (c : Config) (q : Sequencer) : Prop where
  no_block : q.blksize = 0 ∧ q.seqno = 0 ∧ q.bstart = 0 ∧ q.bend = false
  client_turn : q.role = .client → q.rcvd = false
  server_turn : q.role = .server → q.sent = false
  total_le : q.total.toNat ≤ c.rabCap
  done_le : q.done.toNat ≤ c.rabCap
  send_known : q.dir = .tx → q.unk = false
  known : q.unk = false → 1 ≤ q.total.toNat ∧ q.done.toNat ≤ q.total.toNat
  unknown : q.unk = true → q.fin = false → q.total = 0
  final : q.fin = true → q.done = q.total
  final_turn : q.fin = true →
    (q.dir = .tx ∧ q.role = .client ∧ q.sent = true) ∨ (q.dir = .rx ∧ q.role = .server ∧ q.rcvd = true)
  send_left : q.dir = .tx → q.fin = false → q.done.toNat < q.total.toNat

/-- SEQ in a block transfer (42_sequencer.md R204 to R228). -/
structure Sequencer.BlkOk (c : Config) (q : Sequencer) : Prop where
  no_round : q.role = .client ∧ q.unk = false ∧ q.tog = false ∧ q.sent = false ∧ q.rcvd = false ∧ q.fin = false
  blksize_pos : 1 ≤ q.blksize.toNat
  total_pos : 1 ≤ q.total.toNat
  total_le : q.total.toNat ≤ c.rabCap
  seqno_le : q.seqno.toNat ≤ q.blksize.toNat
  start_lt : q.bstart.toNat < q.total.toNat
  done : q.done.toNat = min q.total.toNat (q.bstart.toNat + 7 * q.seqno.toNat)
  last_short : 1 ≤ q.seqno.toNat → q.bstart.toNat + 7 * (q.seqno.toNat - 1) < q.total.toNat
  running : q.bend = false → q.seqno.toNat < q.blksize.toNat ∧ q.done.toNat < q.total.toNat

/-- SEQ after a finished transfer. -/
structure Sequencer.CompleteOk (c : Config) (q : Sequencer) : Prop where
  total_le : q.total.toNat ≤ c.rabCap
  done : q.done = q.total
  no_round : q.sent = false ∧ q.rcvd = false

/-- SEQ (10_state.md R45), by its mode; the idle mode is State.BindOk's. -/
structure State.SeqOk (s : State) : Prop where
  slot : s.seq.slot.toNat < s.cfg.nslot
  seg : s.seq.mode = .seg → s.seq.SegOk s.cfg
  blk : s.seq.mode = .blk → s.seq.BlkOk s.cfg
  complete : s.seq.mode = .complete → s.seq.CompleteOk s.cfg

/-- The slot records of a legal instance; the records at NSLOT and above stay at their reset value (log entry 3). -/
structure State.SlotsOk (s : State) : Prop where
  cfg : s.cfg.wf
  each : ∀ x, (s.slot x).Ok s.cfg
  absent : ∀ x : SlotNo, s.cfg.nslot ≤ x.toNat → s.slot x = Slot.free

/-- THE INVARIANT of the machine. -/
structure State.Inv (s : State) : Prop where
  frames : s.FramesOk
  status : s.StatusOk
  mem : s.MemOk
  bind : s.BindOk
  keys : s.KeysOk
  slots : s.SlotsOk
  seq : s.SeqOk

end Sys2Proof.Machine
end

