-- ==== Sys2Proof/Certificates/Slice0/Obligations.lean ====
section
/-! DEFINITION. The statements for the provers, in the order of spec/: encoding, execution and faults, the host's registers,
one group per unit, invariants. Each docstring names the rules; OBLIGATIONS.json gives each statement in words. -/

open Sys2Proof Sys2Proof.Machine

/-! ## Encoding (spec/30_encoding.md) -/

/-- R129: decoding inverts encoding, on every well-formed instruction. -/
def Obligations.DecodeOfEncode : Prop :=
  ∀ i : Instr, i.wellFormed = true → decode (encode i) = .ok i

/-- R129: a legal word is the one encoding of what it decodes to. -/
def Obligations.EncodeOfDecode : Prop :=
  ∀ (w : Word) (i : Instr), decode w = .ok i → i.wellFormed = true ∧ encode i = w

/-- R125: a word selects a command exactly when w & mask = match in that command's row. -/
def Obligations.WordSelectsRow : Prop :=
  ∀ (w : Word) (op : BitVec 6),
    (∃ i, decode w = .ok i ∧ i.opcode = op) ↔ ∃ row ∈ opcodeRows, row.op = op ∧ w &&& row.mask = row.matchWord

/-- R136: words written out by hand decode to the commands they stand for. -/
def Obligations.SampleWordsDecode : Prop :=
  decode 0x04801234#32 = .ok (.ldi 1 0x1234) ∧
  decode 0x20002800#32 = .ok (.finit .f1 0 .std 8 0x00) ∧
  decode 0x29001280#32 = .ok (.fgetb .le 2 .f0 1 2) ∧
  decode 0x31800FC4#32 = .ok (.fgetx 3 .f0 .payload 63 3) ∧
  decode 0x440002E0#32 = .ok (.crcf .f0 1 7) ∧
  decode 0x60A00180#32 = .ok (.brd .be 1 0 2 4) ∧
  decode 0x6800A2E0#32 = .ok (.ftob 2 0 .f1 1 7) ∧
  decode 0x84A06000#32 = .ok (.sqblk 1 1 2 .rx) ∧
  decode 0xA0A64000#32 = .ok (.raopen 1 1 2 3) ∧
  decode 0xB8004000#32 = .ok (.radt 1 .f0)

/-! ## Execution and faults (spec/60_exceptions.md) -/

/-- R340, R83, R84, R359: a step takes the host's next access. A write is the host write of its register, so a write of CMD
runs the decoded command; a read answers the host and changes nothing else; with no access to come the state is kept. That
the accesses to come and the answers are lists in the state is the model's choice (log entries 1, 4 and 8). -/
def Obligations.StepRunsDecodedCommand : Prop :=
  ∀ (s : State) (off : BitVec 12) (w : Word) (rest : List HostAccess),
    (s.bus.pending = .write off w :: rest → off.toNat / 4 = 3 → s.status.flt = false →
      ∀ i : Instr, decode w = .ok i → step s = exec i (s.withPending rest)) ∧
    (s.bus.pending = .write off w :: rest → step s = hostWrite off w (s.withPending rest)) ∧
    (s.bus.pending = .read off :: rest →
      step s = .next { s with bus := { pending := rest, replies := s.bus.replies ++ [s.hostRead off] } }) ∧
    (s.bus.pending = [] → step s = .next s)

/-- R130, R131: a word with an unassigned opcode faults ILLEGAL_OP, a word with an assigned opcode and a reserved bit set
faults ILLEGAL_ENC, and nothing but STATUS changes. -/
def Obligations.IllegalWordsFault : Prop :=
  ∀ (s : State) (off : BitVec 12) (w : Word), off.toNat / 4 = 3 → s.status.flt = false →
      let op := w.toNat / 2 ^ 26
      ((0x03 ≤ op ∧ op ≤ 0x07) ∨ op = 0x0F ∨ (0x15 ≤ op ∧ op ≤ 0x17) ∨ (0x1C ≤ op ∧ op ≤ 0x1F) ∨
          (0x30 ≤ op ∧ op ≤ 0x3F) →
        hostWrite off w s = .next { s with
          status := { rc := 0xFF, flt := true, cause := 0x01, lastop := fieldOp w } }) ∧
      (∀ row ∈ opcodeRows, row.op.toNat = op → w &&& row.mask &&& 0x03FFFFFF#32 ≠ 0#32 →
        hostWrite off w s = .next { s with
          status := { rc := 0xFF, flt := true, cause := 0x02, lastop := fieldOp w } })

/-- R341, R345: a faulted machine ignores writes of CMD and keeps the whole of STATUS in every step, but for a write of CTRL
with bit 0 set and a hardware reset; those two leave the reset state (the parameters and the host's lists are kept: log
entry 9). -/
def Obligations.FaultIsSticky : Prop :=
  ∀ (s : State) (x : HostAccess) (rest : List HostAccess),
    s.bus.pending = x :: rest → s.status.flt = true →
      let resets := x = .hardReset ∨ ∃ off v, x = .write off v ∧ off.toNat / 4 = 1 ∧ v.getLsbD 0 = true
      (∀ off w, x = .write off w → off.toNat / 4 = 3 → step s = .next (s.withPending rest)) ∧
      (¬ resets → ∃ t, step s = .next t ∧ t.status = s.status) ∧
      (resets → step s = .next { State.resetOf s.cfg with bus := { s.bus with pending := rest } })

/-- R344, R346, R347, R348: which result codes and which fault causes each command can end in. -/
def Obligations.OutcomesPerCommand : Prop :=
  ∀ (i : Instr) (s t : State), exec i s = .next t →
    (∃ c ∈ i.resultCodes, s.returned t i.opcode c) ∨ (∃ c ∈ i.faultCauses, Faults i c s)

/-- R20: a code other than OK, COMPLETE, BURST_DONE and BLOCK_END means that nothing but STATUS changed; RAFIND's rule names
one change more, its destination register. -/
def Obligations.RefusalsChangeOnlyStatus : Prop :=
  ∀ (i : Instr) (s t : State) (c : ResultCode), exec i s = .next t → c.success = false → t.status.rc = c.code →
    match i with
    | .rafind a _ _ => s.KeepsOutside t { dregs := [a] }
    | _ => t = { s with status := t.status }

/-- R33, R40, R47, R82, R102, R171: every command changes nothing outside its footprint and STATUS. -/
def Obligations.CommandsKeepOutside : Prop :=
  ∀ (i : Instr) (s t : State), i.wellFormed = true → exec i s = .next t → s.KeepsOutside t (i.footprint s)

/-- R102: a slot that a command neither names nor, having no slot field, finds bound to the sequencer is neither read nor
written, RAOPEN's and RAFIND's reading of the keys apart. -/
def Obligations.SessionsAreIndependent : Prop :=
  ∀ (i : Instr) (s t : State) (x : SlotNo) (r : Slot) (m : Memory),
    i.slotField ≠ some x → (i.slotField = none → x ≠ s.seq.slot) →
    (∀ sl a b c, i ≠ .raopen sl a b c) → (∀ a b c, i ≠ .rafind a b c) →
    exec i s = .next t → exec i ((s.setSlot x r).setBuf x m) = .next ((t.setSlot x r).setBuf x m)

/-! ## The host's registers (spec/10_state.md, spec/20_memory.md, spec/70_reset_and_hazards.md) -/

/-- R85: an unmapped offset reads 0 and ignores writes. -/
def Obligations.UnmappedOffsets : Prop :=
  ∀ (s : State) (off : BitVec 12), s.cfg.wf →
    let k := off.toNat / 4 * 4
    ¬ (k ≤ 0x010 ∨ (0x020 ≤ k ∧ k < 0x060) ∨ (0x080 ≤ k ∧ k ≤ 0x08C) ∨ (0x100 ≤ k ∧ k < 0x100 + 0x20 * s.cfg.nslot)) →
      s.hostRead off = 0 ∧ ∀ v, hostWrite off v s = .next s

/-- R31 to R34, R36 to R40: what a host read of the registers of the window's first part returns, at every offset whose word
is the register's (R81). -/
def Obligations.HostReadsRegisters : Prop :=
  ∀ s : State,
    (∀ off : BitVec 12, off.toNat / 4 * 4 = 0x000 →
      (s.hostRead off).toNat = s.cfg.nslot % 256 + 256 * (s.cfg.rabCap % 2 ^ 24)) ∧
    (∀ off : BitVec 12, off.toNat / 4 * 4 = 0x004 ∨ off.toNat / 4 * 4 = 0x00C → s.hostRead off = 0) ∧
    (∀ off : BitVec 12, off.toNat / 4 * 4 = 0x008 →
      (s.hostRead off).toNat = s.status.rc.toNat + 2 ^ 8 * s.status.flt.toNat + 2 ^ 16 * s.status.cause.toNat +
        2 ^ 24 * s.status.lastop.toNat) ∧
    (∀ off : BitVec 12, off.toNat / 4 * 4 = 0x010 → (s.hostRead off).toNat = s.crc.toNat) ∧
    (∀ (off : BitVec 12) (r : DReg), off.toNat / 4 * 4 = 0x020 + 4 * r.toNat → s.hostRead off = s.dreg r) ∧
    (∀ (off : BitVec 12) (f : FrameReg), off.toNat / 4 * 4 = 0x040 + 16 * f.bit.toNat →
      (s.hostRead off).toNat = 2 ^ 31 * (s.frame f).ext.bit.toNat + (s.frame f).id.toNat) ∧
    (∀ (off : BitVec 12) (f : FrameReg), off.toNat / 4 * 4 = 0x044 + 16 * f.bit.toNat →
      (s.hostRead off).toNat = (s.frame f).len.val) ∧
    (∀ (off : BitVec 12) (f : FrameReg), off.toNat / 4 * 4 = 0x048 + 16 * f.bit.toNat →
      (s.hostRead off).toNat = beSum (s.frame f).byte 4) ∧
    (∀ (off : BitVec 12) (f : FrameReg), off.toNat / 4 * 4 = 0x04C + 16 * f.bit.toNat →
      (s.hostRead off).toNat = beSum (fun k => (s.frame f).byte (4 + k)) 4)

/-- R46, R47, R53: what a host read of the SEQ registers and of a slot's registers returns, at every offset whose word is the
register's (R81). -/
def Obligations.HostReadsTransferState : Prop :=
  ∀ s : State, s.cfg.wf →
    (∀ off : BitVec 12, off.toNat / 4 * 4 = 0x080 →
      (s.hostRead off).toNat = s.seq.mode.bits.toNat + 2 ^ 2 * s.seq.dir.bit.toNat + 2 ^ 3 * s.seq.role.bit.toNat +
        2 ^ 4 * s.seq.unk.toNat + 2 ^ 5 * s.seq.tog.toNat + 2 ^ 6 * s.seq.sent.toNat + 2 ^ 7 * s.seq.rcvd.toNat +
        2 ^ 8 * s.seq.fin.toNat + 2 ^ 9 * s.seq.bend.toNat + 2 ^ 10 * s.seq.slot.toNat + 2 ^ 13 * s.seq.lastn.toNat +
        2 ^ 16 * s.seq.seqno.toNat + 2 ^ 24 * s.seq.blksize.toNat) ∧
    (∀ off : BitVec 12, off.toNat / 4 * 4 = 0x084 → s.hostRead off = s.seq.total) ∧
    (∀ off : BitVec 12, off.toNat / 4 * 4 = 0x088 → s.hostRead off = s.seq.done) ∧
    (∀ off : BitVec 12, off.toNat / 4 * 4 = 0x08C → s.hostRead off = s.seq.bstart) ∧
    ∀ (x : SlotNo) (off : BitVec 12), x.toNat < s.cfg.nslot →
      let r := s.slot x
      let base := 0x100 + 0x20 * x.toNat
      (off.toNat / 4 * 4 = base → (s.hostRead off).toNat = r.state.bits.toNat + 2 ^ 2 * r.mode.bits.toNat +
        2 ^ 4 * r.proto.bit.toNat + 2 ^ 5 * r.dpok.toNat + 2 ^ 8 * r.sa.toNat + 2 ^ 16 * r.da.toNat) ∧
      (off.toNat / 4 * 4 = base + 0x04 → (s.hostRead off).toNat = r.pgn.toNat) ∧
      (off.toNat / 4 * 4 = base + 0x08 → s.hostRead off = r.size) ∧
      (off.toNat / 4 * 4 = base + 0x0C → (s.hostRead off).toNat = r.npkt.toNat) ∧
      (off.toNat / 4 * 4 = base + 0x10 → (s.hostRead off).toNat = r.next.toNat) ∧
      (off.toNat / 4 * 4 = base + 0x14 → (s.hostRead off).toNat = r.wcount.toNat + 2 ^ 8 * r.wrecv.toNat) ∧
      (off.toNat / 4 * 4 = base + 0x18 → (s.hostRead off).toNat = r.wstart.toNat) ∧
      (off.toNat / 4 * 4 = base + 0x1C → (s.hostRead off).toNat = r.dpo.toNat)

/-- R33, R36, R37, R39, R40, R38, R47, R53: what a host write of an RW register does, and that a read-only one ignores it. -/
def Obligations.HostWritesRegisters : Prop :=
  ∀ (s : State) (off : BitVec 12) (v : Word),
    let k := off.toNat / 4 * 4
    (k = 0x000 ∨ k = 0x008 ∨ (0x080 ≤ k ∧ k ≤ 0x08C) ∨ 0x100 ≤ k → hostWrite off v s = .next s) ∧
    (∀ r : DReg, k = 0x020 + 4 * r.toNat →
      ∃ t, hostWrite off v s = .next t ∧ t.dreg r = v ∧ t.status = s.status ∧ s.KeepsOutside t { dregs := [r] }) ∧
    (k = 0x010 →
      ∃ t, hostWrite off v s = .next t ∧ t.crc.toNat = v.toNat % 2 ^ 16 ∧ t.status = s.status ∧
        s.KeepsOutside t { crc := true }) ∧
    (∀ f : FrameReg, 0x040 + 16 * f.bit.toNat ≤ k → k < 0x050 + 16 * f.bit.toNat →
      ∃ t, hostWrite off v s = .next t ∧ t.status = s.status ∧ s.KeepsOutside t { frames := [f] } ∧
        (t.frame f).ext = (if k % 16 = 0 then (if v.getLsbD 31 then .ext else .std) else (s.frame f).ext) ∧
        (t.frame f).id.toNat = (if k % 16 = 0 then (if v.getLsbD 31 then v.toNat % 2 ^ 29 else v.toNat % 2 ^ 11)
          else (s.frame f).id.toNat) ∧
        (t.frame f).len.val = (if k % 16 = 4 then min (v.toNat % 16) 8 else (s.frame f).len.val) ∧
        (k % 16 = 8 → beSum (t.frame f).byte 4 = v.toNat) ∧
        (k % 16 ≠ 8 → ∀ j, j < 4 → (t.frame f).byte j = (s.frame f).byte j) ∧
        (k % 16 = 12 → beSum (fun j => (t.frame f).byte (4 + j)) 4 = v.toNat) ∧
        (k % 16 ≠ 12 → ∀ j, 4 ≤ j → j < 8 → (t.frame f).byte j = (s.frame f).byte j))

/-- R32, R380, R381: a write of CTRL with bit 0 set and a hardware reset leave the reset state of the instance, a write with
bit 0 clear changes nothing, and CTRL reads 0. That the parameters and the host's lists are no part of what a reset sets, and
that a hardware reset falls between two accesses, is the model's reading (log entries 9 and 10). -/
def Obligations.ResetsLeaveResetState : Prop :=
  ∀ (s : State) (off : BitVec 12) (v : Word) (rest : List HostAccess),
    (off.toNat / 4 = 1 → s.hostRead off = 0) ∧
    (off.toNat / 4 = 1 → v.getLsbD 0 = true → hostWrite off v s = .next { State.resetOf s.cfg with bus := s.bus }) ∧
    (off.toNat / 4 = 1 → v.getLsbD 0 = false → hostWrite off v s = .next s) ∧
    (s.bus.pending = .hardReset :: rest →
      step s = .next { State.resetOf s.cfg with bus := { pending := rest, replies := s.bus.replies } })

/-- R380: the values at reset, the parameters kept, and the constant ID of a legal instance. -/
def Obligations.ResetValues : Prop :=
  ∀ c : Config,
    let s := State.resetOf c
    (∀ r, s.dreg r = 0) ∧
    (∀ f, (s.frame f).id = 0 ∧ (s.frame f).ext = .std ∧ (s.frame f).len = 0 ∧ ∀ k, (s.frame f).byte k = 0) ∧
    s.crc = c.crcInit ∧
    s.status = { rc := 0x00, flt := false, cause := 0x00, lastop := 0 } ∧
    s.seq = { mode := .idle, dir := .tx, role := .client, unk := false, tog := false, sent := false, rcvd := false,
              fin := false, bend := false, slot := 0, lastn := 0, seqno := 0, blksize := 0, total := 0, done := 0,
              bstart := 0 } ∧
    (∀ x, s.slot x = { state := .free, mode := .rxBam, proto := .tp, dpok := false, sa := 0, da := 0, pgn := 0, size := 0,
                       npkt := 0, next := 0, wstart := 0, wcount := 0, wrecv := 0, dpo := 0 }) ∧
    (∀ x o, s.byteAt x o = 0x00) ∧
    s.cfg = c ∧ (c.wf → (s.hostRead 0x000).toNat = 2 ^ 8 * c.rabCap + c.nslot)

/-! ## General commands and the frame unit (spec/40_general.md, spec/41_frame_unpacker.md) -/

/-- R150, R152, R154: NOP, LDI and LDIH complete with OK. -/
def Obligations.GeneralCommands : Prop :=
  ∀ (s : State) (a : DReg) (imm : BitVec 16),
    (∃ t, exec .nop s = .next t ∧ s.returned t 0x00 .ok ∧ s.KeepsOutside t {}) ∧
    (∃ t, exec (.ldi a imm) s = .next t ∧ s.returned t 0x01 .ok ∧ (t.dreg a).toNat = imm.toNat ∧
      s.KeepsOutside t { dregs := [a] }) ∧
    (∃ t, exec (.ldih a imm) s = .next t ∧ s.returned t 0x02 .ok ∧
      (t.dreg a).toNat = imm.toNat * 2 ^ 16 + (s.dreg a).toNat % 2 ^ 16 ∧ s.KeepsOutside t { dregs := [a] })

/-- R172, R175: FINIT and FCOPY. -/
def Obligations.FramesConstructedAndCopied : Prop :=
  ∀ (f g : FrameReg) (a : DReg) (fmt : IdFormat) (len : BitVec 4) (fill : Byte) (s : State),
    let i : Instr := .finit f a fmt len fill
    let wide := (fmt = .std ∧ 0x800 ≤ (s.dreg a).toNat) ∨ (fmt = .ext ∧ 0x20000000 ≤ (s.dreg a).toNat)
    (8 < len.toNat → Faults i .fieldRange s) ∧
    (len.toNat ≤ 8 → wide → Faults i .idRange s) ∧
    (len.toNat ≤ 8 → ¬ wide →
      ∃ t, exec i s = .next t ∧ s.returned t 0x08 .ok ∧ (t.frame f).id.toNat = (s.dreg a).toNat ∧
        (t.frame f).ext = fmt ∧ (t.frame f).len.val = len.toNat ∧ (∀ k, k < 8 → (t.frame f).byte k = fill) ∧
        s.KeepsOutside t { frames := [f] }) ∧
    (∃ t, exec (.fcopy f g) s = .next t ∧ s.returned t 0x09 .ok ∧ t.frame f = s.frame g ∧
      s.KeepsOutside t { frames := [f] })

/-- R178: FGETB. -/
def Obligations.FgetbReads : Prop :=
  ∀ (e : ByteOrder) (a : DReg) (f : FrameReg) (off : BitVec 3) (w : Nat) (s : State), 1 ≤ w → w ≤ 4 →
    let i : Instr := .fgetb e a f off w
    ((s.frame f).len.val < off.toNat + w → Faults i .fieldRange s) ∧
    (off.toNat + w ≤ (s.frame f).len.val →
      ∃ t, exec i s = .next t ∧ s.returned t 0x0A .ok ∧
        (t.dreg a).toNat = fieldSum e (fun k => (s.frame f).byte (off.toNat + k)) w ∧
        s.KeepsOutside t { dregs := [a] })

/-- R181, R182: FPUTB. -/
def Obligations.FputbWrites : Prop :=
  ∀ (e : ByteOrder) (f : FrameReg) (off : BitVec 3) (w : Nat) (a : DReg) (s : State), 1 ≤ w → w ≤ 4 →
    let i : Instr := .fputb e f off w a
    ((s.frame f).len.val < off.toNat + w → Faults i .fieldRange s) ∧
    (off.toNat + w ≤ (s.frame f).len.val →
      ∃ t, exec i s = .next t ∧ s.returned t 0x0B .ok ∧
        fieldSum e (fun k => (t.frame f).byte (off.toNat + k)) w = (s.dreg a).toNat % 256 ^ w ∧
        (∀ k, k < off.toNat ∨ off.toNat + w ≤ k → (t.frame f).byte k = (s.frame f).byte k) ∧
        (t.frame f).id = (s.frame f).id ∧ (t.frame f).ext = (s.frame f).ext ∧ (t.frame f).len = (s.frame f).len ∧
        s.KeepsOutside t { frames := [f] })

/-- R183, R184, R185: FGETX. -/
def Obligations.FgetxReads : Prop :=
  ∀ (a : DReg) (f : FrameReg) (sp : Space) (pos : BitVec 6) (n : Nat) (s : State), 1 ≤ n → n ≤ 32 →
    let i : Instr := .fgetx a f sp pos n
    (¬ (s.frame f).FieldLegal sp pos.toNat n → Faults i .fieldRange s) ∧
    ((s.frame f).FieldLegal sp pos.toNat n →
      ∃ t, exec i s = .next t ∧ s.returned t 0x0C .ok ∧
        (∀ j, (t.dreg a).getLsbD j = (decide (j < n) && (s.frame f).spaceBit sp (pos.toNat + 1 - n + j))) ∧
        s.KeepsOutside t { dregs := [a] })

/-- R182, R183, R184, R188: FPUTX. -/
def Obligations.FputxWrites : Prop :=
  ∀ (f : FrameReg) (sp : Space) (pos : BitVec 6) (n : Nat) (a : DReg) (s : State), 1 ≤ n → n ≤ 32 →
    let i : Instr := .fputx f sp pos n a
    let lo := pos.toNat + 1 - n
    (¬ (s.frame f).FieldLegal sp pos.toNat n → Faults i .fieldRange s) ∧
    ((s.frame f).FieldLegal sp pos.toNat n →
      ∃ t, exec i s = .next t ∧ s.returned t 0x0D .ok ∧
        (∀ j, j < 64 → (t.frame f).spaceBit sp j =
          if lo ≤ j ∧ j ≤ pos.toNat then (s.dreg a).getLsbD (j - lo) else (s.frame f).spaceBit sp j) ∧
        (sp = .payload → (t.frame f).id = (s.frame f).id) ∧
        (sp = .ident → (t.frame f).data = (s.frame f).data) ∧
        (t.frame f).ext = (s.frame f).ext ∧ (t.frame f).len = (s.frame f).len ∧
        s.KeepsOutside t { frames := [f] })

/-- R192, R193: FCLASS, the class at [7:0] of D[a], the server id or source address at [15:8], the destination address at
[23:16]. -/
def Obligations.FclassClassifies : Prop :=
  ∀ (a : DReg) (f : FrameReg) (s : State),
    let id := (s.frame f).id.toNat
    let pf := id / 2 ^ 16 % 256
    let addr := 2 ^ 8 * (id % 256) + 2 ^ 16 * (id / 2 ^ 8 % 256)
    ∃ t, exec (.fclass a f) s = .next t ∧ s.returned t 0x0E .ok ∧ s.KeepsOutside t { dregs := [a] } ∧
      ((s.frame f).ext = .std → (t.dreg a).toNat =
        if 0x601 ≤ id ∧ id ≤ 0x67F then 1 + 2 ^ 8 * (id - 0x600)
        else if 0x581 ≤ id ∧ id ≤ 0x5FF then 2 + 2 ^ 8 * (id - 0x580) else 0) ∧
      ((s.frame f).ext = .ext → (t.dreg a).toNat =
        if id / 2 ^ 24 % 4 ≠ 0 then 0
        else if pf = 0xEC then 3 + addr
        else if pf = 0xEB then 4 + addr
        else if pf = s.cfg.etpCmPf.toNat then 5 + addr
        else if pf = s.cfg.etpDtPf.toNat then 6 + addr else 0)

/-! ## The CRC unit (spec/45_crc.md) -/

/-- R320: crc_byte on integers, its loop turned eight times; its check value over "123456789"; the sum is the accumulator
itself, read by CRCRD. -/
def Obligations.CrcByteIsLoop : Prop :=
  (∀ (poly c : BitVec 16) (b : Byte),
    (crcByte poly c b).toNat = (crcTurn poly.toNat)^[8] (c.toNat ^^^ (b.toNat * 2 ^ 8))) ∧
  [0x31, 0x32, 0x33, 0x34, 0x35, 0x36, 0x37, 0x38, 0x39].foldl (crcByte 0x1021) 0x0000 = 0x31C3 ∧
  (∀ (a : DReg) (s : State), ∃ t, exec (.crcrd a) s = .next t ∧ (t.dreg a).toNat = s.crc.toNat)

/-- R322, R328, R330: CRCCLR, CRCRD and CRCCHK. -/
def Obligations.CrcRegisterCommands : Prop :=
  ∀ (a : DReg) (s : State),
    (∃ t, exec .crcclr s = .next t ∧ s.returned t 0x10 .ok ∧ t.crc = s.cfg.crcInit ∧
      s.KeepsOutside t { crc := true }) ∧
    (∃ t, exec (.crcrd a) s = .next t ∧ s.returned t 0x13 .ok ∧ (t.dreg a).toNat = s.crc.toNat ∧
      s.KeepsOutside t { dregs := [a] }) ∧
    (∃ t, exec (.crcchk a) s = .next t ∧ s.KeepsOutside t {} ∧
      s.returned t 0x14 (if s.crc.toNat = (s.dreg a).toNat % 2 ^ 16 then .ok else .crcMismatch))

/-- R324: CRCF. -/
def Obligations.CrcfFeedsFrameBytes : Prop :=
  ∀ (f : FrameReg) (off : BitVec 3) (n : BitVec 4) (s : State),
    let i : Instr := .crcf f off n
    (8 < n.toNat ∨ (s.frame f).len.val < off.toNat + n.toNat → Faults i .fieldRange s) ∧
    (off.toNat + n.toNat ≤ (s.frame f).len.val →
      ∃ t, exec i s = .next t ∧ s.returned t 0x11 .ok ∧
        t.crc = (List.range n.toNat).foldl (fun c k => crcByte s.cfg.crcPoly c ((s.frame f).byte (off.toNat + k))) s.crc ∧
        s.KeepsOutside t { crc := true })

/-- R326, R300: CRCB. -/
def Obligations.CrcbFeedsBufferBytes : Prop :=
  ∀ (sl : SlotNo) (a b : DReg) (s : State),
    let i : Instr := .crcb sl a b
    let off := (s.dreg a).toNat
    let cnt := (s.dreg b).toNat
    (s.cfg.nslot ≤ sl.toNat → Faults i .slotRange s) ∧
    (sl.toNat < s.cfg.nslot → s.RxBusy sl → Faults i .slotState s) ∧
    (sl.toNat < s.cfg.nslot → ¬ s.RxBusy sl → s.cfg.rabCap < off + cnt → Faults i .bufRange s) ∧
    (sl.toNat < s.cfg.nslot → ¬ s.RxBusy sl → off + cnt ≤ s.cfg.rabCap →
      ∃ t, exec i s = .next t ∧ s.returned t 0x12 .ok ∧
        t.crc = (List.range cnt).foldl (fun c k => crcByte s.cfg.crcPoly c (s.byteAt sl (off + k))) s.crc ∧
        s.KeepsOutside t { crc := true })

/-! ## Buffer access (spec/44_buffer.md) -/

/-- R300, R302: BRD. -/
def Obligations.BrdReads : Prop :=
  ∀ (e : ByteOrder) (a : DReg) (sl : SlotNo) (b : DReg) (w : Nat) (s : State), 1 ≤ w → w ≤ 4 →
    let i : Instr := .brd e a sl b w
    let off := (s.dreg b).toNat
    (s.cfg.nslot ≤ sl.toNat → Faults i .slotRange s) ∧
    (sl.toNat < s.cfg.nslot → s.RxBusy sl → Faults i .slotState s) ∧
    (sl.toNat < s.cfg.nslot → ¬ s.RxBusy sl → s.cfg.rabCap < off + w → Faults i .bufRange s) ∧
    (sl.toNat < s.cfg.nslot → ¬ s.RxBusy sl → off + w ≤ s.cfg.rabCap →
      ∃ t, exec i s = .next t ∧ s.returned t 0x18 .ok ∧
        (t.dreg a).toNat = fieldSum e (fun k => s.byteAt sl (off + k)) w ∧ s.KeepsOutside t { dregs := [a] })

/-- R300, R305: BWR. -/
def Obligations.BwrWrites : Prop :=
  ∀ (e : ByteOrder) (sl : SlotNo) (b : DReg) (w : Nat) (a : DReg) (s : State), s.MemOk → 1 ≤ w → w ≤ 4 →
    let i : Instr := .bwr e sl b w a
    let off := (s.dreg b).toNat
    (s.cfg.nslot ≤ sl.toNat → Faults i .slotRange s) ∧
    (sl.toNat < s.cfg.nslot → s.RxBusy sl → Faults i .slotState s) ∧
    (sl.toNat < s.cfg.nslot → ¬ s.RxBusy sl → s.cfg.rabCap < off + w → Faults i .bufRange s) ∧
    (sl.toNat < s.cfg.nslot → ¬ s.RxBusy sl → off + w ≤ s.cfg.rabCap →
      ∃ t, exec i s = .next t ∧ s.returned t 0x19 .ok ∧
        fieldSum e (fun k => t.byteAt sl (off + k)) w = (s.dreg a).toNat % 256 ^ w ∧
        s.KeepsOutside t { bytes := [{ sl := sl, off := off, n := w }] })

/-- R300, R306, R308: FTOB. -/
def Obligations.FtobCopies : Prop :=
  ∀ (sl : SlotNo) (b : DReg) (f : FrameReg) (fo : BitVec 3) (n : BitVec 4) (s : State), s.MemOk →
    let i : Instr := .ftob sl b f fo n
    let off := (s.dreg b).toNat
    let badField := 8 < n.toNat ∨ (s.frame f).len.val < fo.toNat + n.toNat
    (s.cfg.nslot ≤ sl.toNat → Faults i .slotRange s) ∧
    (sl.toNat < s.cfg.nslot → badField → Faults i .fieldRange s) ∧
    (sl.toNat < s.cfg.nslot → ¬ badField → s.RxBusy sl → Faults i .slotState s) ∧
    (sl.toNat < s.cfg.nslot → ¬ badField → ¬ s.RxBusy sl → s.cfg.rabCap < off + n.toNat → Faults i .bufRange s) ∧
    (sl.toNat < s.cfg.nslot → ¬ badField → ¬ s.RxBusy sl → off + n.toNat ≤ s.cfg.rabCap →
      ∃ t, exec i s = .next t ∧ s.returned t 0x1A .ok ∧
        (∀ k, k < n.toNat → t.byteAt sl (off + k) = (s.frame f).byte (fo.toNat + k)) ∧
        s.KeepsOutside t { bytes := [{ sl := sl, off := off, n := n.toNat }] })

/-- R300, R306, R311: BTOF. -/
def Obligations.BtofCopies : Prop :=
  ∀ (f : FrameReg) (fo : BitVec 3) (n : BitVec 4) (sl : SlotNo) (b : DReg) (s : State),
    let i : Instr := .btof f fo n sl b
    let off := (s.dreg b).toNat
    let badField := 8 < n.toNat ∨ (s.frame f).len.val < fo.toNat + n.toNat
    (s.cfg.nslot ≤ sl.toNat → Faults i .slotRange s) ∧
    (sl.toNat < s.cfg.nslot → badField → Faults i .fieldRange s) ∧
    (sl.toNat < s.cfg.nslot → ¬ badField → s.RxBusy sl → Faults i .slotState s) ∧
    (sl.toNat < s.cfg.nslot → ¬ badField → ¬ s.RxBusy sl → s.cfg.rabCap < off + n.toNat → Faults i .bufRange s) ∧
    (sl.toNat < s.cfg.nslot → ¬ badField → ¬ s.RxBusy sl → off + n.toNat ≤ s.cfg.rabCap →
      ∃ t, exec i s = .next t ∧ s.returned t 0x1B .ok ∧
        (∀ k, k < n.toNat → (t.frame f).byte (fo.toNat + k) = s.byteAt sl (off + k)) ∧
        (∀ k, k < fo.toNat ∨ fo.toNat + n.toNat ≤ k → (t.frame f).byte k = (s.frame f).byte k) ∧
        (t.frame f).id = (s.frame f).id ∧ (t.frame f).ext = (s.frame f).ext ∧ (t.frame f).len = (s.frame f).len ∧
        s.KeepsOutside t { frames := [f] })

/-! ## The sequencer (spec/42_sequencer.md) -/

/-- R202: SQSEG. -/
def Obligations.SqsegStarts : Prop :=
  ∀ (sl : SlotNo) (a : DReg) (dir : Dir) (role : Role) (u : Bool) (s : State),
    let i : Instr := .sqseg sl a dir role u
    let size := (s.dreg a).toNat
    let badSize := u = false ∧ (size = 0 ∨ s.cfg.rabCap < size)
    (s.cfg.nslot ≤ sl.toNat → Faults i .slotRange s) ∧
    (sl.toNat < s.cfg.nslot → s.seq.mode ≠ .idle → Faults i .seqState s) ∧
    (sl.toNat < s.cfg.nslot → s.seq.mode = .idle → (s.slot sl).state ≠ .free → Faults i .slotState s) ∧
    (sl.toNat < s.cfg.nslot → s.seq.mode = .idle → (s.slot sl).state = .free → dir = .tx → u = true →
      Faults i .param s) ∧
    (sl.toNat < s.cfg.nslot → s.seq.mode = .idle → (s.slot sl).state = .free → badSize → Refuses i .sizeErr s) ∧
    (sl.toNat < s.cfg.nslot → s.seq.mode = .idle → (s.slot sl).state = .free → (dir = .tx → u = false) → ¬ badSize →
      ∃ t, exec i s = .next t ∧ s.returned t 0x20 .ok ∧
        t.seq = { Sequencer.idle with
          mode := .seg, dir := dir, role := role, unk := u, slot := sl, total := if u then 0 else s.dreg a } ∧
        t.slot sl = { s.slot sl with state := .seq } ∧ s.KeepsOutside t { seq := true, slots := [sl] })

/-- R204: SQBLK. -/
def Obligations.SqblkStarts : Prop :=
  ∀ (sl : SlotNo) (a b : DReg) (dir : Dir) (s : State),
    let i : Instr := .sqblk sl a b dir
    let size := (s.dreg a).toNat
    let nb := (s.dreg b).toNat
    let badSize := size = 0 ∨ s.cfg.rabCap < size
    let startable := sl.toNat < s.cfg.nslot ∧ s.seq.mode = .idle ∧ (s.slot sl).state = .free
    (s.cfg.nslot ≤ sl.toNat → Faults i .slotRange s) ∧
    (sl.toNat < s.cfg.nslot → s.seq.mode ≠ .idle → Faults i .seqState s) ∧
    (sl.toNat < s.cfg.nslot → s.seq.mode = .idle → (s.slot sl).state ≠ .free → Faults i .slotState s) ∧
    (startable → nb < 1 ∨ 127 < nb → Faults i .blksizeRange s) ∧
    (startable → 1 ≤ nb → nb ≤ 127 → badSize → Refuses i .sizeErr s) ∧
    (startable → 1 ≤ nb → nb ≤ 127 → ¬ badSize →
      ∃ t, exec i s = .next t ∧ s.returned t 0x21 .ok ∧
        t.seq.blksize.toNat = nb ∧
        t.seq = { Sequencer.idle with
          mode := .blk, dir := dir, slot := sl, blksize := t.seq.blksize, total := s.dreg a } ∧
        t.slot sl = { s.slot sl with state := .seq } ∧ s.KeepsOutside t { seq := true, slots := [sl] })

/-- R206, R207, R210, R215: SQSEND. -/
def Obligations.SqsendBuildsSegment : Prop :=
  ∀ (f : FrameReg) (cs : BitVec 3) (s : State), s.cfg.wf → s.SeqOk →
    let i : Instr := .sqsend f cs
    let q := s.seq
    let turn := q.mode = .seg ∧ (q.role = .client → q.sent = false) ∧ (q.role = .server → q.rcvd = true)
    let nd := min 7 (q.total.toNat - q.done.toNat)
    let head := 32 * cs.toNat + 16 * q.tog.toNat
    (¬ turn → Faults i .seqState s) ∧
    (turn → ∃ t, exec i s = .next t ∧ s.KeepsOutside t { frames := [f], seq := true } ∧
      (q.dir = .tx →
        (s.frame f).Built (t.frame f)
          (head + 2 * (7 - nd) + if q.done.toNat + nd = q.total.toNat then 1 else 0) nd
          (fun k => s.byteAt q.slot (q.done.toNat + k)) 0x00 ∧
        t.seq.done.toNat = q.done.toNat + nd ∧ t.seq.lastn.toNat = 7 - nd ∧
        t.seq.fin = decide (q.done.toNat + nd = q.total.toNat)) ∧
      (q.dir = .rx →
        (s.frame f).Built (t.frame f) head 0 (fun _ => 0x00) 0x00 ∧
        t.seq.done = q.done ∧ t.seq.lastn = q.lastn ∧ t.seq.fin = q.fin) ∧
      (q.role = .client → s.returned t 0x22 .ok ∧
        t.seq = { q with done := t.seq.done, lastn := t.seq.lastn, fin := t.seq.fin, sent := true }) ∧
      (q.role = .server → s.returned t 0x22 (if t.seq.fin then .complete else .ok) ∧
        t.seq = { q with
          done := t.seq.done, lastn := t.seq.lastn, fin := t.seq.fin, sent := false, rcvd := false, tog := !q.tog
          mode := if t.seq.fin then .complete else .seg }))

/-- R211, R215: when SQRECV faults, and the frames it refuses, in the order of its checks. -/
def Obligations.SqrecvRefuses : Prop :=
  ∀ (f : FrameReg) (cs : BitVec 3) (s : State),
    let i : Instr := .sqrecv f cs
    let q := s.seq
    let turn := q.mode = .seg ∧ (q.role = .client → q.sent = true) ∧ (q.role = .server → q.rcvd = false)
    let h := ((s.frame f).byte 0).toNat
    let nd := 7 - h / 2 % 8
    let limit := if q.unk then s.cfg.rabCap else q.total.toNat
    let good := turn ∧ (s.frame f).len = 8 ∧ h / 32 = cs.toNat ∧ h / 16 % 2 = q.tog.toNat
    (¬ turn → Faults i .seqState s) ∧
    (turn → (s.frame f).len ≠ 8 → Refuses i .invalid s) ∧
    (turn → (s.frame f).len = 8 → h / 32 ≠ cs.toNat → Refuses i .csMismatch s) ∧
    (turn → (s.frame f).len = 8 → h / 32 = cs.toNat → h / 16 % 2 ≠ q.tog.toNat → Refuses i .toggleErr s) ∧
    (good → q.dir = .rx → limit < q.done.toNat + nd → Refuses i .overrun s) ∧
    (good → q.dir = .rx → q.done.toNat + nd < q.total.toNat → h % 2 = 1 → q.unk = false → Refuses i .lengthErr s)

/-- R210, R211, R213: a frame SQRECV takes. -/
def Obligations.SqrecvTakesSegment : Prop :=
  ∀ (f : FrameReg) (cs : BitVec 3) (s : State), s.cfg.wf → s.MemOk → s.SeqOk →
    let i : Instr := .sqrecv f cs
    let q := s.seq
    let turn := q.mode = .seg ∧ (q.role = .client → q.sent = true) ∧ (q.role = .server → q.rcvd = false)
    let h := ((s.frame f).byte 0).toNat
    let nd := 7 - h / 2 % 8
    let limit := if q.unk then s.cfg.rabCap else q.total.toNat
    turn → (s.frame f).len = 8 → h / 32 = cs.toNat → h / 16 % 2 = q.tog.toNat →
    (q.dir = .rx → q.done.toNat + nd ≤ limit) →
    (q.dir = .rx → h % 2 = 1 → q.unk = false → q.done.toNat + nd = q.total.toNat) →
      ∃ t, exec i s = .next t ∧
        (q.dir = .tx → s.KeepsOutside t { seq := true } ∧
          t.seq.done = q.done ∧ t.seq.lastn = q.lastn ∧ t.seq.fin = q.fin ∧ t.seq.total = q.total) ∧
        (q.dir = .rx → s.KeepsOutside t { seq := true, bytes := [{ sl := q.slot, off := q.done.toNat, n := nd }] } ∧
          (∀ k, k < nd → t.byteAt q.slot (q.done.toNat + k) = (s.frame f).byte (1 + k)) ∧
          t.seq.done.toNat = q.done.toNat + nd ∧ t.seq.lastn.toNat = h / 2 % 8 ∧ t.seq.fin = decide (h % 2 = 1) ∧
          t.seq.total = (if h % 2 = 1 ∧ q.unk = true then t.seq.done else q.total)) ∧
        (q.role = .server → s.returned t 0x23 .ok ∧
          t.seq = { q with
            done := t.seq.done, lastn := t.seq.lastn, fin := t.seq.fin, total := t.seq.total, rcvd := true }) ∧
        (q.role = .client → s.returned t 0x23 (if t.seq.fin then .complete else .ok) ∧
          t.seq = { q with
            done := t.seq.done, lastn := t.seq.lastn, fin := t.seq.fin, total := t.seq.total
            sent := false, rcvd := false, tog := !q.tog, mode := if t.seq.fin then .complete else .seg })

/-- R217, R218, R219: SQBTX. -/
def Obligations.SqbtxBuildsSegment : Prop :=
  ∀ (f : FrameReg) (s : State), s.cfg.wf → s.SeqOk →
    let i : Instr := .sqbtx f
    let q := s.seq
    let ready := q.mode = .blk ∧ q.dir = .tx ∧ q.bend = false
    let n := q.seqno.toNat + 1
    let nd := min 7 (q.total.toNat - q.done.toNat)
    let payloadEnd := q.done.toNat + nd = q.total.toNat
    let blockEnd := n = q.blksize.toNat ∨ payloadEnd
    let last := payloadEnd ∨ (s.cfg.blkLastRule = .perBlock ∧ n = q.blksize.toNat)
    (¬ ready → Faults i .seqState s) ∧
    (ready → ∃ t, exec i s = .next t ∧ s.KeepsOutside t { frames := [f], seq := true } ∧
      (last → (s.frame f).Built (t.frame f) (128 + n) nd (fun k => s.byteAt q.slot (q.done.toNat + k)) 0x00) ∧
      (¬ last → (s.frame f).Built (t.frame f) n nd (fun k => s.byteAt q.slot (q.done.toNat + k)) 0x00) ∧
      t.seq.seqno.toNat = n ∧ t.seq.done.toNat = q.done.toNat + nd ∧ t.seq.lastn.toNat = 7 - nd ∧
      (t.seq.bend = true ↔ blockEnd) ∧
      t.seq = { q with seqno := t.seq.seqno, done := t.seq.done, lastn := t.seq.lastn, bend := t.seq.bend } ∧
      s.returned t 0x24 (if t.seq.bend then .blockEnd else .ok))

/-- R221, R222: SQBRX. -/
def Obligations.SqbrxTakesSegment : Prop :=
  ∀ (f : FrameReg) (s : State), s.cfg.wf → s.MemOk → s.SeqOk →
    let i : Instr := .sqbrx f
    let q := s.seq
    let ready := q.mode = .blk ∧ q.dir = .rx ∧ q.bend = false
    let h := ((s.frame f).byte 0).toNat
    let n := h % 128
    let nd := min 7 (q.total.toNat - q.done.toNat)
    (¬ ready → Faults i .seqState s) ∧
    (ready → (s.frame f).len ≠ 8 ∨ n = 0 → Refuses i .invalid s) ∧
    (ready → (s.frame f).len = 8 → 1 ≤ n → n ≤ q.seqno.toNat → Refuses i .seqDup s) ∧
    (ready → (s.frame f).len = 8 → q.seqno.toNat + 1 < n → Refuses i .seqGap s) ∧
    (ready → (s.frame f).len = 8 → n = q.seqno.toNat + 1 →
      ∃ t, exec i s = .next t ∧
        s.KeepsOutside t { seq := true, bytes := [{ sl := q.slot, off := q.done.toNat, n := nd }] } ∧
        (∀ k, k < nd → t.byteAt q.slot (q.done.toNat + k) = (s.frame f).byte (1 + k)) ∧
        t.seq.seqno.toNat = n ∧ t.seq.done.toNat = q.done.toNat + nd ∧ t.seq.lastn.toNat = 7 - nd ∧
        (t.seq.bend = true ↔ 128 ≤ h ∨ n = q.blksize.toNat ∨ q.done.toNat + nd = q.total.toNat) ∧
        t.seq = { q with seqno := t.seq.seqno, done := t.seq.done, lastn := t.seq.lastn, bend := t.seq.bend } ∧
        s.returned t 0x25 (if t.seq.bend then .blockEnd else .ok))

/-- R226, R227: SQBACK. -/
def Obligations.SqbackAcknowledges : Prop :=
  ∀ (a b : DReg) (s : State), s.cfg.wf → s.SeqOk →
    let i : Instr := .sqback a b
    let q := s.seq
    let ack := (s.dreg a).toNat
    let nb := (s.dreg b).toNat
    let ready := q.mode = .blk ∧ (q.dir = .tx → q.bend = true)
    let next := if q.dir = .tx ∧ ack < q.seqno.toNat then q.bstart.toNat + 7 * ack else q.done.toNat
    (¬ ready → Faults i .seqState s) ∧
    (ready → nb < 1 ∨ 127 < nb → Faults i .blksizeRange s) ∧
    (ready → 1 ≤ nb → nb ≤ 127 → q.dir = .tx → q.seqno.toNat < ack → Refuses i .ackErr s) ∧
    (ready → 1 ≤ nb → nb ≤ 127 → (q.dir = .tx → ack ≤ q.seqno.toNat) →
      ∃ t, exec i s = .next t ∧ s.KeepsOutside t { seq := true } ∧
        (next = q.total.toNat → s.returned t 0x26 .complete ∧ t.seq = { q with mode := .complete }) ∧
        (next ≠ q.total.toNat → s.returned t 0x26 .ok ∧
          t.seq.done.toNat = next ∧ t.seq.blksize.toNat = nb ∧
          t.seq = { q with
            done := t.seq.done, bstart := t.seq.done, seqno := 0, bend := false, blksize := t.seq.blksize }))

/-- R234, R235: SQREL. -/
def Obligations.SqrelReleases : Prop :=
  ∀ s : State, s.SeqOk →
    (s.seq.mode = .idle → ∃ t, exec .sqrel s = .next t ∧ s.returned t 0x27 .ok ∧ s.KeepsOutside t {}) ∧
    (s.seq.mode ≠ .idle → ∃ t, exec .sqrel s = .next t ∧ s.returned t 0x27 .ok ∧ t.seq = Sequencer.idle ∧
      t.slot s.seq.slot = Slot.free ∧
      (s.seq.dir = .rx → s.seq.mode ≠ .complete →
        s.KeepsOutside t
          { seq := true, slots := [s.seq.slot], bytes := [{ sl := s.seq.slot, off := 0, n := s.cfg.rabCap }] } ∧
        ∀ o, o < s.cfg.rabCap → t.byteAt s.seq.slot o = 0x00) ∧
      (s.seq.dir = .tx ∨ s.seq.mode = .complete → s.KeepsOutside t { seq := true, slots := [s.seq.slot] }))

/-! ## The reassembly buffer (spec/43_reassembly.md) -/

/-- R254, R255, R257, R258: RAOPEN. -/
def Obligations.RaopenOpens : Prop :=
  ∀ (sl : SlotNo) (a b c : DReg) (s : State), s.cfg.wf →
    let i : Instr := .raopen sl a b c
    let size := (s.dreg a).toNat
    let pg := (s.dreg b).toNat
    let prm := (s.dreg c).toNat
    let badPrm := 2 ^ 24 ≤ pg ∨ 2 ^ 19 ≤ prm ∨ (prm / 2 ^ 18 % 2 = 1 ∧ prm / 2 ^ 16 % 2 = 0)
    let badSize := size = 0 ∨ (if prm / 2 ^ 18 % 2 = 1 then s.cfg.rabCap else 1785) < size
    let busy := ∃ x : SlotNo, x ≠ sl ∧ x.toNat < s.cfg.nslot ∧ ((s.slot x).state = .opened ∨ (s.slot x).state = .done) ∧
      (s.slot x).sa.toNat = prm % 256 ∧ (s.slot x).da.toNat = prm / 2 ^ 8 % 256 ∧ (s.slot x).pgn.toNat = pg
    let openable := sl.toNat < s.cfg.nslot ∧ ¬ badPrm ∧ (s.slot sl).state = .free
    (s.cfg.nslot ≤ sl.toNat → Faults i .slotRange s) ∧
    (sl.toNat < s.cfg.nslot → badPrm → Faults i .param s) ∧
    (sl.toNat < s.cfg.nslot → ¬ badPrm → (s.slot sl).state ≠ .free → Faults i .slotState s) ∧
    (openable → badSize → Refuses i .sizeErr s) ∧
    (openable → ¬ badSize → busy → Refuses i .keyBusy s) ∧
    (openable → ¬ badSize → ¬ busy →
      ∃ t, exec i s = .next t ∧ s.returned t 0x28 .ok ∧ s.KeepsOutside t { slots := [sl] } ∧
        let r := t.slot sl
        r.state = .opened ∧ r.mode.bits.toNat = prm / 2 ^ 16 % 4 ∧ r.proto.bit.toNat = prm / 2 ^ 18 ∧ r.dpok = false ∧
        r.sa.toNat = prm % 256 ∧ r.da.toNat = prm / 2 ^ 8 % 256 ∧ r.pgn.toNat = pg ∧ r.size = s.dreg a ∧
        size ≤ 7 * r.npkt.toNat ∧ 7 * r.npkt.toNat < size + 7 ∧ r.next = 1 ∧ r.wstart = 1 ∧ r.wcount = 0 ∧ r.wrecv = 0 ∧
        r.dpo = 0)

/-- R260, R261: RACLOSE. -/
def Obligations.RacloseCloses : Prop :=
  ∀ (sl : SlotNo) (s : State),
    let i : Instr := .raclose sl
    let r := s.slot sl
    let unfinished := r.state = .opened ∧ (r.mode = .rxBam ∨ r.mode = .rxRts)
    (s.cfg.nslot ≤ sl.toNat → Faults i .slotRange s) ∧
    (sl.toNat < s.cfg.nslot → r.state = .seq → Faults i .slotState s) ∧
    (sl.toNat < s.cfg.nslot → r.state = .free →
      ∃ t, exec i s = .next t ∧ s.returned t 0x29 .ok ∧ s.KeepsOutside t {}) ∧
    (sl.toNat < s.cfg.nslot → r.state = .opened ∨ r.state = .done →
      ∃ t, exec i s = .next t ∧ s.returned t 0x29 .ok ∧ t.slot sl = Slot.free ∧
        (unfinished →
          s.KeepsOutside t { slots := [sl], bytes := [{ sl := sl, off := 0, n := s.cfg.rabCap }] } ∧
          ∀ o, o < s.cfg.rabCap → t.byteAt sl o = 0x00) ∧
        (¬ unfinished → s.KeepsOutside t { slots := [sl] }))

/-- R263, R264: RAFIND. -/
def Obligations.RafindFinds : Prop :=
  ∀ (a b c : DReg) (s : State), s.cfg.wf →
    let i : Instr := .rafind a b c
    let k := (s.dreg b).toNat
    let hit := fun x : SlotNo => x.toNat < s.cfg.nslot ∧ ((s.slot x).state = .opened ∨ (s.slot x).state = .done) ∧
      (s.slot x).sa.toNat = k % 256 ∧ (s.slot x).da.toNat = k / 2 ^ 8 % 256 ∧
      (k / 2 ^ 16 % 2 = 0 ∨ (s.slot x).pgn.toNat = (s.dreg c).toNat % 2 ^ 24)
    ∃ t, exec i s = .next t ∧ s.KeepsOutside t { dregs := [a] } ∧
      ((∀ x, ¬ hit x) → s.returned t 0x2A .notFound ∧ t.dreg a = 0xFFFFFFFF) ∧
      (∀ x, hit x → (∀ y, hit y → y = x) → s.returned t 0x2A .ok ∧ (t.dreg a).toNat = x.toNat) ∧
      (∀ x, hit x → (∀ y, hit y → x.toNat ≤ y.toNat) → (∃ y, hit y ∧ y ≠ x) →
        s.returned t 0x2A .ambiguous ∧ (t.dreg a).toNat = x.toNat)

/-- R266, R267, R268: RACTS. -/
def Obligations.RactsGrants : Prop :=
  ∀ (sl : SlotNo) (a b : DReg) (s : State),
    let i : Instr := .racts sl a b
    let r := s.slot sl
    let ready := r.state = .opened ∧ r.mode = .rxRts
    let cnt := min ((s.dreg b).toNat % 256) (r.npkt.toNat + 1 - r.next.toNat)
    (s.cfg.nslot ≤ sl.toNat → Faults i .slotRange s) ∧
    (sl.toNat < s.cfg.nslot → ¬ ready → Faults i .slotState s) ∧
    (sl.toNat < s.cfg.nslot → ready → r.Ok s.cfg →
      ∃ t, exec i s = .next t ∧ s.returned t 0x2B .ok ∧ (t.dreg a).toNat = cnt + 2 ^ 8 * r.next.toNat ∧
        (t.slot sl).wcount.toNat = cnt ∧
        t.slot sl = { r with
          wstart := r.next, wcount := (t.slot sl).wcount, wrecv := 0
          dpok := if r.proto = .etp then false else r.dpok } ∧
        s.KeepsOutside t { dregs := [a], slots := [sl] })

/-- R269, R270: RACTSTX. -/
def Obligations.RactstxApplies : Prop :=
  ∀ (sl : SlotNo) (a b : DReg) (s : State),
    let i : Instr := .ractstx sl a b
    let r := s.slot sl
    let cnt := (s.dreg a).toNat
    let nx := (s.dreg b).toNat
    let ready := r.mode = .txRts ∧ (r.state = .opened ∨ r.state = .done)
    let outside := 255 < cnt ∨ nx < 1 ∨ r.npkt.toNat < nx + cnt - 1
    (s.cfg.nslot ≤ sl.toNat → Faults i .slotRange s) ∧
    (sl.toNat < s.cfg.nslot → ¬ ready → Faults i .slotState s) ∧
    (sl.toNat < s.cfg.nslot → ready → cnt ≠ 0 → outside → Refuses i .ctsErr s) ∧
    (sl.toNat < s.cfg.nslot → ready → cnt = 0 →
      ∃ t, exec i s = .next t ∧ s.returned t 0x2C .ok ∧ t.slot sl = { r with wcount := 0, wrecv := 0 } ∧
        s.KeepsOutside t { slots := [sl] }) ∧
    (sl.toNat < s.cfg.nslot → ready → cnt ≠ 0 → ¬ outside →
      ∃ t, exec i s = .next t ∧ s.returned t 0x2C .ok ∧ s.KeepsOutside t { slots := [sl] } ∧
        (t.slot sl).next.toNat = nx ∧ (t.slot sl).wcount.toNat = cnt ∧
        (r.proto = .etp → (t.slot sl).dpo.toNat + 1 = nx ∧ (t.slot sl).dpok = true) ∧
        (r.proto = .tp → (t.slot sl).dpo = r.dpo ∧ (t.slot sl).dpok = r.dpok) ∧
        t.slot sl = { r with
          state := .opened, next := (t.slot sl).next, wstart := (t.slot sl).next, wcount := (t.slot sl).wcount
          wrecv := 0, dpo := (t.slot sl).dpo, dpok := (t.slot sl).dpok })

/-- R272, R273: RADPO. -/
def Obligations.RadpoApplies : Prop :=
  ∀ (sl : SlotNo) (a b : DReg) (s : State),
    let i : Instr := .radpo sl a b
    let r := s.slot sl
    let cnt := (s.dreg a).toNat
    let off := (s.dreg b).toNat
    let ready := r.state = .opened ∧ r.mode = .rxRts ∧ r.proto = .etp
    let good := (off : Int) = (r.wstart.toNat : Int) - 1 ∧ 1 ≤ cnt ∧ cnt ≤ r.wcount.toNat
    (s.cfg.nslot ≤ sl.toNat → Faults i .slotRange s) ∧
    (sl.toNat < s.cfg.nslot → ¬ ready → Faults i .slotState s) ∧
    (sl.toNat < s.cfg.nslot → ready → ¬ good → Refuses i .dpoErr s) ∧
    (sl.toNat < s.cfg.nslot → ready → good →
      ∃ t, exec i s = .next t ∧ s.returned t 0x2D .ok ∧ s.KeepsOutside t { slots := [sl] } ∧
        (t.slot sl).dpo.toNat = off ∧ (t.slot sl).wcount.toNat = cnt ∧
        t.slot sl = { r with dpo := (t.slot sl).dpo, wcount := (t.slot sl).wcount, wrecv := 0, dpok := true })

/-- R252, R275, R277, R279: when RADT faults, and the packets it refuses. -/
def Obligations.RadtRefuses : Prop :=
  ∀ (sl : SlotNo) (f : FrameReg) (s : State),
    let i : Instr := .radt sl f
    let r := s.slot sl
    let ready := sl.toNat < s.cfg.nslot ∧ r.state = .opened ∧ (r.mode = .rxBam ∨ r.mode = .rxRts)
    let q := ((s.frame f).byte 0).toNat
    let p := if r.mode = .rxRts ∧ r.proto = .etp then r.dpo.toNat + q else q
    let shut := r.mode = .rxRts ∧ (r.wcount = 0 ∨ (r.proto = .etp ∧ r.dpok = false))
    let past := if r.mode = .rxRts then r.wstart.toNat + r.wcount.toNat - 1 < p else r.npkt.toNat < p
    let framed := (s.frame f).len = 8 ∧ q ≠ 0
    (s.cfg.nslot ≤ sl.toNat → Faults i .slotRange s) ∧
    (sl.toNat < s.cfg.nslot → ¬ ready → Faults i .slotState s) ∧
    (ready → ¬ framed → Refuses i .invalid s) ∧
    (ready → framed → shut ∨ past → Refuses i .outOfWindow s) ∧
    (ready → framed → ¬ shut → ¬ past → p < r.next.toNat → Refuses i .seqDup s) ∧
    (ready → framed → ¬ shut → ¬ past → r.next.toNat < p → Refuses i .seqGap s)

/-- R251, R275: a packet RADT takes. -/
def Obligations.RadtTakesPacket : Prop :=
  ∀ (sl : SlotNo) (f : FrameReg) (s : State), s.MemOk → s.SlotsOk →
    let i : Instr := .radt sl f
    let r := s.slot sl
    let ready := sl.toNat < s.cfg.nslot ∧ r.state = .opened ∧ (r.mode = .rxBam ∨ r.mode = .rxRts)
    let q := ((s.frame f).byte 0).toNat
    let p := if r.mode = .rxRts ∧ r.proto = .etp then r.dpo.toNat + q else q
    let base := (p - 1) * 7
    let nb := min 7 (r.size.toNat - base)
    ready → (s.frame f).len = 8 → q ≠ 0 → p = r.next.toNat →
    (r.mode = .rxRts → 1 ≤ r.wcount.toNat ∧ p ≤ r.wstart.toNat + r.wcount.toNat - 1) →
    (r.mode = .rxRts → r.proto = .etp → r.dpok = true) →
      ∃ t, exec i s = .next t ∧
        s.KeepsOutside t { slots := [sl], bytes := [{ sl := sl, off := base, n := nb }] } ∧
        (∀ k, k < nb → t.byteAt sl (base + k) = (s.frame f).byte (1 + k)) ∧
        (t.slot sl).next.toNat = p + 1 ∧
        (t.slot sl).wrecv.toNat = (if r.mode = .rxRts then r.wrecv.toNat + 1 else r.wrecv.toNat) ∧
        t.slot sl = { r with
          next := (t.slot sl).next, wrecv := (t.slot sl).wrecv
          state := if p = r.npkt.toNat then .done else .opened
          dpok := if p ≠ r.npkt.toNat ∧ r.proto = .etp ∧ (t.slot sl).wrecv = r.wcount then false else r.dpok } ∧
        s.returned t 0x2E (if p = r.npkt.toNat then .complete
          else if r.mode = .rxRts ∧ (t.slot sl).wrecv = r.wcount then .burstDone else .ok)

/-- R251, R252, R273, R281, R282: RATX. -/
def Obligations.RatxSendsPacket : Prop :=
  ∀ (sl : SlotNo) (f : FrameReg) (s : State), s.SlotsOk →
    let i : Instr := .ratx sl f
    let r := s.slot sl
    let ready := sl.toNat < s.cfg.nslot ∧ r.state = .opened ∧ (r.mode = .txBam ∨ r.mode = .txRts)
    let p := r.next.toNat
    let spent := r.mode = .txRts ∧ (r.wcount = 0 ∨ r.wstart.toNat + r.wcount.toNat - 1 < p)
    let base := (p - 1) * 7
    let nb := min 7 (r.size.toNat - base)
    (s.cfg.nslot ≤ sl.toNat → Faults i .slotRange s) ∧
    (sl.toNat < s.cfg.nslot → ¬ ready → Faults i .slotState s) ∧
    (ready → spent → Faults i .window s) ∧
    (ready → ¬ spent →
      ∃ t, exec i s = .next t ∧ s.KeepsOutside t { frames := [f], slots := [sl] } ∧
        (s.frame f).Built (t.frame f) (if r.proto = .etp then p - r.dpo.toNat else p) nb
          (fun k => s.byteAt sl (base + k)) 0xFF ∧
        (t.slot sl).next.toNat = p + 1 ∧
        (t.slot sl).wrecv.toNat = (if r.mode = .txRts then r.wrecv.toNat + 1 else r.wrecv.toNat) ∧
        t.slot sl = { r with
          next := (t.slot sl).next, wrecv := (t.slot sl).wrecv
          state := if p = r.npkt.toNat then .done else .opened } ∧
        s.returned t 0x2F (if p = r.npkt.toNat then .complete
          else if r.mode = .txRts ∧ (t.slot sl).wrecv = r.wcount then .burstDone else .ok))

/-! ## Invariants -/

/-- The invariant holds at reset, for every legal instance (R380). -/
def Obligations.InvariantAtReset : Prop :=
  ∀ c : Config, c.wf → (State.resetOf c).Inv

/-- R35: a standard frame's identifier keeps to 11 bits in every step. -/
def Obligations.FrameIdsStayLegal : Prop :=
  ∀ s t : State, s.FramesOk → step s = .next t → t.FramesOk

/-- R38, R41, R42: STATUS holds a listed code and a listed cause in every step. -/
def Obligations.StatusStaysLegal : Prop :=
  ∀ s t : State, s.StatusOk → step s = .next t → t.StatusOk

/-- R55: the bytes of every slot keep their canonical form and stay inside the buffer memory in every step. -/
def Obligations.MemoryStaysCanonical : Prop :=
  ∀ s t : State, s.MemOk → step s = .next t → t.MemOk

/-- R48: SEQ and its slot stay linked in every step. -/
def Obligations.SequencerStaysBound : Prop :=
  ∀ s t : State, s.BindOk → step s = .next t → t.BindOk

/-- R257: no step makes two sessions with one key. -/
def Obligations.SessionKeysStayDistinct : Prop :=
  ∀ s t : State, s.SlotsOk → s.KeysOk → step s = .next t → t.KeysOk

/-- R54: the session records stay legal in every step. That the records at NSLOT and above keep the reset value is the
model's choice (log entry 3). -/
def Obligations.SessionsStayLegal : Prop :=
  ∀ s t : State, s.SlotsOk → step s = .next t → t.SlotsOk

/-- R45: SEQ stays legal in every step. -/
def Obligations.SequencerStaysLegal : Prop :=
  ∀ s t : State, s.cfg.wf → s.SeqOk → step s = .next t → t.SeqOk

/-- Every step from a state of the invariant ends in a next state of the invariant: no fault of the model and no refusal (log entries 1 and 5: an idle host's step keeps the state). -/
def Obligations.StepsGoOn : Prop :=
  ∀ s : State, s.Inv → ∃ t, step s = .next t ∧ t.Inv
end

