-- ==== Sys2Proof/Laws/Encoding.lean ====
section
/-! SUPPORT. The value of each format's word as a sum of its fields (spec/30_encoding.md R114 to R124), from which every field
is read off by division, and the fields of a word as quotients. -/

namespace Sys2Proof

/-- A concatenation as a sum: the low part keeps its value, the high part is shifted by the low part's width. -/
theorem toNat_append_sum {m n : Nat} (x : BitVec m) (y : BitVec n) : (x ++ y).toNat = x.toNat * 2 ^ n + y.toNat := by
  have h := Nat.two_pow_add_eq_or_of_lt y.isLt x.toNat
  rw [BitVec.toNat_append, Nat.shiftLeft_eq, Nat.mul_comm, ← h]

/-- A field of a word as a quotient. -/
theorem toNat_field (w : Word) (lo n : Nat) : (w.extractLsb' lo n).toNat = w.toNat / 2 ^ lo % 2 ^ n := by
  simp [BitVec.extractLsb', Nat.shiftRight_eq_div_pow]

/-! ## Words -/

theorem toNat_encZ (op : BitVec 6) :
    (encZ op).toNat = op.toNat * 2 ^ 26 := by
  unfold encZ
  refine (toNat_append_sum _ _).trans ?_
  simp only [BitVec.toNat_ofNat]
  omega

theorem toNat_encI (op : BitVec 6) (a : DReg) (imm : BitVec 16) :
    (encI op a imm).toNat = op.toNat * 2 ^ 26 + a.toNat * 2 ^ 23 + imm.toNat := by
  unfold encI
  refine (toNat_append_sum _ _).trans ?_
  simp only [toNat_append_sum, BitVec.toNat_ofNat]
  omega

theorem toNat_encFI (op : BitVec 6) (a : DReg) (f : FrameReg) (fmt : IdFormat) (len : BitVec 4) (fill : Byte) :
    (encFI op a f fmt len fill).toNat = op.toNat * 2 ^ 26 + a.toNat * 2 ^ 23 + f.bit.toNat * 2 ^ 13 + fmt.bit.toNat * 2 ^ 12 + len.toNat * 2 ^ 8 + fill.toNat := by
  unfold encFI
  refine (toNat_append_sum _ _).trans ?_
  simp only [toNat_append_sum, BitVec.toNat_ofNat]
  omega

theorem toNat_encFC (op : BitVec 6) (f g : FrameReg) :
    (encFC op f g).toNat = op.toNat * 2 ^ 26 + f.bit.toNat * 2 ^ 13 + g.bit.toNat * 2 ^ 12 := by
  unfold encFC
  refine (toNat_append_sum _ _).trans ?_
  simp only [toNat_append_sum, BitVec.toNat_ofNat]
  omega

theorem toNat_encFB (op : BitVec 6) (a : DReg) (f : FrameReg) (e : ByteOrder) (off : BitVec 3) (w : Nat) :
    (encFB op a f e off w).toNat = op.toNat * 2 ^ 26 + a.toNat * 2 ^ 23 + f.bit.toNat * 2 ^ 13 + e.bit.toNat * 2 ^ 12 + off.toNat * 2 ^ 9 + (encWidth w).toNat * 2 ^ 7 := by
  unfold encFB
  refine (toNat_append_sum _ _).trans ?_
  simp only [toNat_append_sum, BitVec.toNat_ofNat]
  omega

theorem toNat_encFX (op : BitVec 6) (a : DReg) (f : FrameReg) (sp : Space) (pos : BitVec 6) (n : Nat) :
    (encFX op a f sp pos n).toNat = op.toNat * 2 ^ 26 + a.toNat * 2 ^ 23 + f.bit.toNat * 2 ^ 13 + sp.bit.toNat * 2 ^ 12 + pos.toNat * 2 ^ 6 + (encCount n).toNat * 2 ^ 1 := by
  unfold encFX
  refine (toNat_append_sum _ _).trans ?_
  simp only [toNat_append_sum, BitVec.toNat_ofNat]
  omega

theorem toNat_encFK (op : BitVec 6) (a : DReg) (f : FrameReg) :
    (encFK op a f).toNat = op.toNat * 2 ^ 26 + a.toNat * 2 ^ 23 + f.bit.toNat * 2 ^ 13 := by
  unfold encFK
  refine (toNat_append_sum _ _).trans ?_
  simp only [toNat_append_sum, BitVec.toNat_ofNat]
  omega

theorem toNat_encCF (op : BitVec 6) (f : FrameReg) (off : BitVec 3) (n : BitVec 4) :
    (encCF op f off n).toNat = op.toNat * 2 ^ 26 + f.bit.toNat * 2 ^ 13 + off.toNat * 2 ^ 9 + n.toNat * 2 ^ 5 := by
  unfold encCF
  refine (toNat_append_sum _ _).trans ?_
  simp only [toNat_append_sum, BitVec.toNat_ofNat]
  omega

theorem toNat_encCB (op : BitVec 6) (a b : DReg) (sl : SlotNo) :
    (encCB op a b sl).toNat = op.toNat * 2 ^ 26 + a.toNat * 2 ^ 23 + b.toNat * 2 ^ 20 + sl.toNat * 2 ^ 14 := by
  unfold encCB
  refine (toNat_append_sum _ _).trans ?_
  simp only [toNat_append_sum, BitVec.toNat_ofNat]
  omega

theorem toNat_encR1 (op : BitVec 6) (a : DReg) :
    (encR1 op a).toNat = op.toNat * 2 ^ 26 + a.toNat * 2 ^ 23 := by
  unfold encR1
  refine (toNat_append_sum _ _).trans ?_
  simp only [toNat_append_sum, BitVec.toNat_ofNat]
  omega

theorem toNat_encBM (op : BitVec 6) (a b : DReg) (sl : SlotNo) (e : ByteOrder) (w : Nat) :
    (encBM op a b sl e w).toNat = op.toNat * 2 ^ 26 + a.toNat * 2 ^ 23 + b.toNat * 2 ^ 20 + sl.toNat * 2 ^ 14 + e.bit.toNat * 2 ^ 12 + (encWidth w).toNat * 2 ^ 7 := by
  unfold encBM
  refine (toNat_append_sum _ _).trans ?_
  simp only [toNat_append_sum, BitVec.toNat_ofNat]
  omega

theorem toNat_encBF (op : BitVec 6) (b : DReg) (sl : SlotNo) (f : FrameReg) (fo : BitVec 3) (n : BitVec 4) :
    (encBF op b sl f fo n).toNat = op.toNat * 2 ^ 26 + b.toNat * 2 ^ 20 + sl.toNat * 2 ^ 14 + f.bit.toNat * 2 ^ 13 + fo.toNat * 2 ^ 9 + n.toNat * 2 ^ 5 := by
  unfold encBF
  refine (toNat_append_sum _ _).trans ?_
  simp only [toNat_append_sum, BitVec.toNat_ofNat]
  omega

theorem toNat_encSS (op : BitVec 6) (a : DReg) (sl : SlotNo) (dir : Dir) (role : Role) (u : Bool) :
    (encSS op a sl dir role u).toNat = op.toNat * 2 ^ 26 + a.toNat * 2 ^ 23 + sl.toNat * 2 ^ 14 + dir.bit.toNat * 2 ^ 13 + role.bit.toNat * 2 ^ 12 + (flagBit u).toNat * 2 ^ 11 := by
  unfold encSS
  refine (toNat_append_sum _ _).trans ?_
  simp only [toNat_append_sum, BitVec.toNat_ofNat]
  omega

theorem toNat_encSB (op : BitVec 6) (a b : DReg) (sl : SlotNo) (dir : Dir) :
    (encSB op a b sl dir).toNat = op.toNat * 2 ^ 26 + a.toNat * 2 ^ 23 + b.toNat * 2 ^ 20 + sl.toNat * 2 ^ 14 + dir.bit.toNat * 2 ^ 13 := by
  unfold encSB
  refine (toNat_append_sum _ _).trans ?_
  simp only [toNat_append_sum, BitVec.toNat_ofNat]
  omega

theorem toNat_encSF (op : BitVec 6) (f : FrameReg) (cs : BitVec 3) :
    (encSF op f cs).toNat = op.toNat * 2 ^ 26 + f.bit.toNat * 2 ^ 13 + cs.toNat * 2 ^ 9 := by
  unfold encSF
  refine (toNat_append_sum _ _).trans ?_
  simp only [toNat_append_sum, BitVec.toNat_ofNat]
  omega

theorem toNat_encSG (op : BitVec 6) (f : FrameReg) :
    (encSG op f).toNat = op.toNat * 2 ^ 26 + f.bit.toNat * 2 ^ 13 := by
  unfold encSG
  refine (toNat_append_sum _ _).trans ?_
  simp only [toNat_append_sum, BitVec.toNat_ofNat]
  omega

theorem toNat_encSK (op : BitVec 6) (a b : DReg) :
    (encSK op a b).toNat = op.toNat * 2 ^ 26 + a.toNat * 2 ^ 23 + b.toNat * 2 ^ 20 := by
  unfold encSK
  refine (toNat_append_sum _ _).trans ?_
  simp only [toNat_append_sum, BitVec.toNat_ofNat]
  omega

theorem toNat_encRO (op : BitVec 6) (a b c : DReg) (sl : SlotNo) :
    (encRO op a b c sl).toNat = op.toNat * 2 ^ 26 + a.toNat * 2 ^ 23 + b.toNat * 2 ^ 20 + c.toNat * 2 ^ 17 + sl.toNat * 2 ^ 14 := by
  unfold encRO
  refine (toNat_append_sum _ _).trans ?_
  simp only [toNat_append_sum, BitVec.toNat_ofNat]
  omega

theorem toNat_encRS (op : BitVec 6) (sl : SlotNo) :
    (encRS op sl).toNat = op.toNat * 2 ^ 26 + sl.toNat * 2 ^ 14 := by
  unfold encRS
  refine (toNat_append_sum _ _).trans ?_
  simp only [toNat_append_sum, BitVec.toNat_ofNat]
  omega

theorem toNat_encRF (op : BitVec 6) (a b c : DReg) :
    (encRF op a b c).toNat = op.toNat * 2 ^ 26 + a.toNat * 2 ^ 23 + b.toNat * 2 ^ 20 + c.toNat * 2 ^ 17 := by
  unfold encRF
  refine (toNat_append_sum _ _).trans ?_
  simp only [toNat_append_sum, BitVec.toNat_ofNat]
  omega

theorem toNat_encRW (op : BitVec 6) (a b : DReg) (sl : SlotNo) :
    (encRW op a b sl).toNat = op.toNat * 2 ^ 26 + a.toNat * 2 ^ 23 + b.toNat * 2 ^ 20 + sl.toNat * 2 ^ 14 := by
  unfold encRW
  refine (toNat_append_sum _ _).trans ?_
  simp only [toNat_append_sum, BitVec.toNat_ofNat]
  omega

theorem toNat_encRD (op : BitVec 6) (sl : SlotNo) (f : FrameReg) :
    (encRD op sl f).toNat = op.toNat * 2 ^ 26 + sl.toNat * 2 ^ 14 + f.bit.toNat * 2 ^ 13 := by
  unfold encRD
  refine (toNat_append_sum _ _).trans ?_
  simp only [toNat_append_sum, BitVec.toNat_ofNat]
  omega

end Sys2Proof
end

