-- ==== Sys2Proof/Laws/HostPort.lean ====
section
/-! SUPPORT. A host access at an offset depends on the word the offset lies in and on nothing else of the offset
(spec/20_memory.md R81). -/

namespace Sys2Proof.Machine

/-- Offsets [11:2] as a quotient. -/
theorem wordIndex_toNat (off : BitVec 12) : (off.extractLsb' 2 10).toNat = off.toNat / 4 := by
  have h := off.isLt
  rw [BitVec.extractLsb'_toNat, Nat.shiftRight_eq_div_pow]
  omega

/-- Two offsets of one word select one register. -/
theorem regAt_of_same_word (c : Config) {off o : BitVec 12} (h : off.toNat / 4 * 4 = o.toNat / 4 * 4) :
    regAt c off = regAt c o := by
  have e : off.toNat / 4 = o.toNat / 4 := by omega
  unfold regAt
  rw [wordIndex_toNat, wordIndex_toNat, e]

/-- Host reads at two offsets of one word return the same. -/
theorem State.hostRead_of_same_word (s : State) {off o : BitVec 12} (h : off.toNat / 4 * 4 = o.toNat / 4 * 4) :
    s.hostRead off = s.hostRead o := by
  unfold State.hostRead
  rw [regAt_of_same_word s.cfg h]

/-- Host writes at two offsets of one word do the same. -/
theorem hostWrite_of_same_word (v : Word) (s : State) {off o : BitVec 12} (h : off.toNat / 4 * 4 = o.toNat / 4 * 4) :
    hostWrite off v s = hostWrite o v s := by
  unfold hostWrite
  rw [regAt_of_same_word s.cfg h]

end Sys2Proof.Machine
end

