-- ==== Sys2Proof/Laws/Memory.lean ====
section
/-! SUPPORT. The laws of one slot's bytes: what a read returns after each memory operation, and that every operation keeps
the canonical form (`Memory.wf`). -/

namespace Sys2Proof.Machine

/-! ## Reading -/

@[simp] theorem Memory.read_nil (a : Nat) : Memory.read [] a = 0x00 := rfl

/-- Nothing is listed below the start of a canonical list. -/
theorem Memory.read_below : ∀ (m : Memory) (lo a : Nat), m.wfFrom lo = true → a < lo → m.read a = 0x00
  | [], _, _, _, _ => rfl
  | (b, v) :: t, lo, a, h, ha => by
    simp only [Memory.wfFrom, Bool.and_eq_true, decide_eq_true_eq] at h
    simp only [Memory.read]
    rw [if_neg (by omega)]
    exact Memory.read_below t (b + 1) a h.2 (by omega)

theorem Memory.wfFrom_mono : ∀ (m : Memory) (lo lo' : Nat), m.wfFrom lo = true → lo' ≤ lo → m.wfFrom lo' = true
  | [], _, _, _, _ => rfl
  | (b, v) :: t, lo, lo', h, hl => by
    simp only [Memory.wfFrom, Bool.and_eq_true, decide_eq_true_eq] at h ⊢
    exact ⟨⟨by omega, h.1.2⟩, h.2⟩

/-! ## Writing one byte -/

/-- Writing one byte leaves every other one alone, whatever the list. -/
theorem Memory.read_write_other : ∀ (m : Memory) (a o : Nat) (v : Byte), o ≠ a → (m.write a v).read o = m.read o
  | [], a, o, v, h => by
    simp only [Memory.write]
    split
    · rfl
    · simp [Memory.read, Ne.symm h]
  | (b, u) :: t, a, o, v, h => by
    have ih := Memory.read_write_other t a o v h
    simp only [Memory.write]
    split
    · split
      · rfl
      · simp [Memory.read, Ne.symm h]
    · split
      · rename_i hab
        subst hab
        split <;> simp [Memory.read, Ne.symm h]
      · simp [Memory.read, ih]

/-- A byte written is read back. -/
theorem Memory.read_write_same : ∀ (m : Memory) (lo a : Nat) (v : Byte), m.wfFrom lo = true → (m.write a v).read a = v
  | [], _, a, v, _ => by
    simp only [Memory.write]
    split
    · rename_i h; simp [h]
    · simp [Memory.read]
  | (b, u) :: t, lo, a, v, h => by
    simp only [Memory.wfFrom, Bool.and_eq_true, decide_eq_true_eq] at h
    simp only [Memory.write]
    split
    · split
      · rename_i hab hv
        simp only [Memory.read]
        rw [if_neg (by omega), Memory.read_below t (b + 1) a h.2 (by omega), hv]
      · simp [Memory.read]
    · split
      · rename_i hab
        subst hab
        split
        · rename_i hv
          rw [Memory.read_below t (a + 1) a h.2 (by omega), hv]
        · simp [Memory.read]
      · rename_i h1 h2
        simp only [Memory.read]
        rw [if_neg (fun e => h2 e.symm)]
        exact Memory.read_write_same t (b + 1) a v h.2

/-- Writing one byte keeps the canonical form. -/
theorem Memory.wfFrom_write : ∀ (m : Memory) (lo a : Nat) (v : Byte), m.wfFrom lo = true → lo ≤ a →
    (m.write a v).wfFrom lo = true
  | [], lo, a, v, _, ha => by
    simp only [Memory.write]
    split
    · rfl
    · rename_i hv
      simpa [Memory.wfFrom, ha] using hv
  | (b, u) :: t, lo, a, v, h, ha => by
    have h' := h
    simp only [Memory.wfFrom, Bool.and_eq_true, decide_eq_true_eq, bne_iff_ne] at h
    simp only [Memory.write]
    split
    · split
      · exact h'
      · rename_i hab hv
        simp only [Memory.wfFrom, Bool.and_eq_true, decide_eq_true_eq, bne_iff_ne]
        exact ⟨⟨ha, hv⟩, ⟨by omega, h.1.2⟩, h.2⟩
    · split
      · rename_i hab
        subst hab
        split
        · exact Memory.wfFrom_mono t (a + 1) lo h.2 (by omega)
        · rename_i hv
          simp only [Memory.wfFrom, Bool.and_eq_true, decide_eq_true_eq, bne_iff_ne]
          exact ⟨⟨ha, hv⟩, h.2⟩
      · simp only [Memory.wfFrom, Bool.and_eq_true, decide_eq_true_eq, bne_iff_ne]
        exact ⟨h.1, Memory.wfFrom_write t (b + 1) a v h.2 (by omega)⟩

theorem Memory.wf_write (m : Memory) (a : Nat) (v : Byte) (h : m.wf = true) : (m.write a v).wf = true :=
  Memory.wfFrom_write m 0 a v h (Nat.zero_le a)

/-- An entry after a write is the written one or was there before. -/
theorem Memory.mem_write : ∀ (m : Memory) (a : Nat) (v : Byte) (c : Host.Cell), c ∈ m.write a v → c = (a, v) ∨ c ∈ m
  | [], a, v, c, h => by
    simp only [Memory.write] at h
    split at h
    · exact .inr h
    · exact .inl (by simpa using h)
  | (b, u) :: t, a, v, c, h => by
    simp only [Memory.write] at h
    split at h
    · split at h
      · exact .inr h
      · rcases List.mem_cons.mp h with rfl | h
        · exact .inl rfl
        · exact .inr h
    · split at h
      · split at h
        · exact .inr (List.mem_cons_of_mem _ h)
        · rcases List.mem_cons.mp h with rfl | h
          · exact .inl rfl
          · exact .inr (List.mem_cons_of_mem _ h)
      · rcases List.mem_cons.mp h with rfl | h
        · exact .inr (List.mem_cons_self ..)
        · rcases Memory.mem_write t a v c h with h | h
          · exact .inl h
          · exact .inr (List.mem_cons_of_mem _ h)

/-! ## Byte ranges -/

@[simp] theorem Memory.length_readN (m : Memory) (a n : Nat) : (m.readN a n).length = n := by
  induction n generalizing a with
  | zero => rfl
  | succ n ih => simp [Memory.readN, ih]

/-- Byte k of a range read. -/
theorem Memory.getElem?_readN (m : Memory) (a n k : Nat) (h : k < n) : (m.readN a n)[k]? = some (m.read (a + k)) := by
  induction n generalizing a k with
  | zero => omega
  | succ n ih =>
    cases k with
    | zero => simp [Memory.readN]
    | succ k =>
      simp only [Memory.readN, List.getElem?_cons_succ]
      rw [ih (a + 1) k (by omega)]
      congr 2
      omega

theorem Memory.getD_readN (m : Memory) (a n k : Nat) (d : Byte) (h : k < n) :
    (m.readN a n).getD k d = m.read (a + k) := by
  simp [List.getD, Memory.getElem?_readN m a n k h]

/-- A range read is the map of the reads. -/
theorem Memory.readN_eq_map (m : Memory) (a n : Nat) : m.readN a n = (List.range n).map (fun k => m.read (a + k)) := by
  apply List.ext_getElem?
  intro k
  by_cases h : k < n
  · rw [Memory.getElem?_readN m a n k h]
    simp [h]
  · rw [List.getElem?_eq_none (by simpa using h), List.getElem?_eq_none (by simpa using h)]

/-- Writing a range leaves every byte outside it alone, whatever the list. -/
theorem Memory.read_writeN_other : ∀ (bs : List Byte) (m : Memory) (a o : Nat), o < a ∨ a + bs.length ≤ o →
    (m.writeN a bs).read o = m.read o
  | [], _, _, _, _ => rfl
  | v :: t, m, a, o, h => by
    simp only [List.length_cons] at h
    simp only [Memory.writeN]
    rw [Memory.read_writeN_other t _ (a + 1) o (by omega), Memory.read_write_other _ _ _ _ (by omega)]

theorem Memory.wf_writeN : ∀ (bs : List Byte) (m : Memory) (a : Nat), m.wf = true → (m.writeN a bs).wf = true
  | [], _, _, h => h
  | v :: t, m, a, h => Memory.wf_writeN t _ (a + 1) (Memory.wf_write m a v h)

/-- A range written is read back. -/
theorem Memory.read_writeN_same : ∀ (bs : List Byte) (m : Memory) (a k : Nat), m.wf = true → k < bs.length →
    (m.writeN a bs).read (a + k) = bs.getD k 0x00
  | [], _, _, _, _, h => by simp at h
  | v :: t, m, a, k, hm, h => by
    simp only [Memory.writeN]
    cases k with
    | zero =>
      rw [Memory.read_writeN_other t _ (a + 1) (a + 0) (by omega), Nat.add_zero, Memory.read_write_same m 0 a v hm]
      simp
    | succ k =>
      have := Memory.read_writeN_same t (m.write a v) (a + 1) k (Memory.wf_write m a v hm) (by simpa using h)
      rw [show a + (k + 1) = a + 1 + k by omega, this]
      simp

theorem Memory.mem_writeN : ∀ (bs : List Byte) (m : Memory) (a : Nat) (c : Host.Cell), c ∈ m.writeN a bs →
    (a ≤ c.1 ∧ c.1 < a + bs.length) ∨ c ∈ m
  | [], _, _, _, h => .inr h
  | v :: t, m, a, c, h => by
    rcases Memory.mem_writeN t _ (a + 1) c h with h | h
    · exact .inl ⟨by omega, by simp only [List.length_cons]; omega⟩
    · rcases Memory.mem_write m a v c h with rfl | h
      · exact .inl ⟨Nat.le_refl _, by simp⟩
      · exact .inr h

/-! ## Clearing -/

/-- Clearing leaves the bytes at and above the limit alone and zeroes the others. -/
theorem Memory.read_clear : ∀ (m : Memory) (lim o : Nat), (m.clear lim).read o = if o < lim then 0x00 else m.read o
  | [], _, _ => by simp [Memory.clear]
  | (b, v) :: t, lim, o => by
    have ih := Memory.read_clear t lim o
    simp only [Memory.clear] at ih ⊢
    simp only [List.filter_cons]
    by_cases hb : lim ≤ b
    · simp only [hb, decide_true, if_true, Memory.read, ih]
      by_cases e : b = o
      · subst e
        simp [Nat.not_lt.mpr hb]
      · simp [e]
    · simp only [hb, decide_false, Bool.false_eq_true, if_false, ih, Memory.read]
      by_cases e : b = o
      · subst e
        simp [Nat.lt_of_not_le hb]
      · simp [e]

theorem Memory.mem_clear (m : Memory) (lim : Nat) (c : Host.Cell) : c ∈ m.clear lim ↔ c ∈ m ∧ lim ≤ c.1 := by
  simp [Memory.clear]

theorem Memory.wfFrom_clear : ∀ (m : Memory) (lo lim : Nat), m.wfFrom lo = true → (m.clear lim).wfFrom lo = true
  | [], _, _, _ => rfl
  | (b, v) :: t, lo, lim, h => by
    simp only [Memory.wfFrom, Bool.and_eq_true, decide_eq_true_eq] at h
    have ih := Memory.wfFrom_clear t (b + 1) lim h.2
    simp only [Memory.clear] at ih ⊢
    simp only [List.filter_cons]
    split
    · simp only [Memory.wfFrom, Bool.and_eq_true, decide_eq_true_eq]
      exact ⟨h.1, ih⟩
    · exact Memory.wfFrom_mono _ (b + 1) lo ih (by omega)

theorem Memory.wf_clear (m : Memory) (lim : Nat) (h : m.wf = true) : (m.clear lim).wf = true :=
  Memory.wfFrom_clear m 0 lim h

/-- The memory at reset is canonical. -/
theorem State.reset_buf_wf (c : Config) (x : SlotNo) : ((State.resetOf c).buf x).wf = true := by
  have : (State.resetOf c).buf x = [] := by simp [State.resetOf, State.buf]
  rw [this]
  rfl

end Sys2Proof.Machine
end

