-- ==== Sys2Proof/Laws/State.lean ====
section
/-! SUPPORT. One lemma per observation of the state per update of it, so that no proof unfolds a record update. -/

namespace Sys2Proof.Machine

/-! ## setDreg -/

@[simp] theorem State.setDreg_cfg (s : State) (r : DReg) (v : Word) :
    (s.setDreg r v).cfg = s.cfg := rfl
@[simp] theorem State.setDreg_frame (s : State) (r : DReg) (v : Word) (f' : FrameReg) :
    (s.setDreg r v).frame f' = s.frame f' := rfl
@[simp] theorem State.setDreg_crc (s : State) (r : DReg) (v : Word) :
    (s.setDreg r v).crc = s.crc := rfl
@[simp] theorem State.setDreg_status (s : State) (r : DReg) (v : Word) :
    (s.setDreg r v).status = s.status := rfl
@[simp] theorem State.setDreg_seq (s : State) (r : DReg) (v : Word) :
    (s.setDreg r v).seq = s.seq := rfl
@[simp] theorem State.setDreg_slot (s : State) (r : DReg) (v : Word) (t : SlotNo) :
    (s.setDreg r v).slot t = s.slot t := rfl
@[simp] theorem State.setDreg_buf (s : State) (r : DReg) (v : Word) (t : SlotNo) :
    (s.setDreg r v).buf t = s.buf t := rfl
@[simp] theorem State.setDreg_byteAt (s : State) (r : DReg) (v : Word) (t : SlotNo) (a : Nat) :
    (s.setDreg r v).byteAt t a = s.byteAt t a := rfl
@[simp] theorem State.setDreg_bus (s : State) (r : DReg) (v : Word) :
    (s.setDreg r v).bus = s.bus := rfl
/-- Reading any dreg after setDreg. -/
theorem State.setDreg_dreg (s : State) (r : DReg) (v : Word) (x : DReg) :
    (s.setDreg r v).dreg x = if x = r then v else s.dreg x := by
  unfold State.setDreg State.dreg
  by_cases h : x = r
  · subst h; simp
  · have : ¬ r.toNat = x.toNat := fun e => h (BitVec.eq_of_toNat_eq e.symm)
    simp [h, this]
@[simp] theorem State.setDreg_dreg_same (s : State) (r : DReg) (v : Word) : (s.setDreg r v).dreg r = v := by
  simp [State.setDreg_dreg]
@[simp] theorem State.setDreg_dreg_other (s : State) (r : DReg) (v : Word) (x : DReg) (h : x ≠ r) :
    (s.setDreg r v).dreg x = s.dreg x := by
  simp [State.setDreg_dreg, h]

/-! ## setFrame -/

@[simp] theorem State.setFrame_cfg (s : State) (f : FrameReg) (fr : Frame) :
    (s.setFrame f fr).cfg = s.cfg := by cases f <;> rfl
@[simp] theorem State.setFrame_dreg (s : State) (f : FrameReg) (fr : Frame) (r' : DReg) :
    (s.setFrame f fr).dreg r' = s.dreg r' := by cases f <;> rfl
@[simp] theorem State.setFrame_crc (s : State) (f : FrameReg) (fr : Frame) :
    (s.setFrame f fr).crc = s.crc := by cases f <;> rfl
@[simp] theorem State.setFrame_status (s : State) (f : FrameReg) (fr : Frame) :
    (s.setFrame f fr).status = s.status := by cases f <;> rfl
@[simp] theorem State.setFrame_seq (s : State) (f : FrameReg) (fr : Frame) :
    (s.setFrame f fr).seq = s.seq := by cases f <;> rfl
@[simp] theorem State.setFrame_slot (s : State) (f : FrameReg) (fr : Frame) (t : SlotNo) :
    (s.setFrame f fr).slot t = s.slot t := by cases f <;> rfl
@[simp] theorem State.setFrame_buf (s : State) (f : FrameReg) (fr : Frame) (t : SlotNo) :
    (s.setFrame f fr).buf t = s.buf t := by cases f <;> rfl
@[simp] theorem State.setFrame_byteAt (s : State) (f : FrameReg) (fr : Frame) (t : SlotNo) (a : Nat) :
    (s.setFrame f fr).byteAt t a = s.byteAt t a := by cases f <;> rfl
@[simp] theorem State.setFrame_bus (s : State) (f : FrameReg) (fr : Frame) :
    (s.setFrame f fr).bus = s.bus := by cases f <;> rfl
/-- Reading any frame register after setFrame. -/
theorem State.setFrame_frame (s : State) (f : FrameReg) (fr : Frame) (f' : FrameReg) :
    (s.setFrame f fr).frame f' = if f' = f then fr else s.frame f' := by
  cases f <;> cases f' <;> rfl
@[simp] theorem State.setFrame_frame_same (s : State) (f : FrameReg) (fr : Frame) : (s.setFrame f fr).frame f = fr := by
  cases f <;> rfl
@[simp] theorem State.setFrame_frame_other (s : State) (f : FrameReg) (fr : Frame) (f' : FrameReg) (h : f' ≠ f) :
    (s.setFrame f fr).frame f' = s.frame f' := by
  simp [State.setFrame_frame, h]

/-! ## setSlot -/

@[simp] theorem State.setSlot_cfg (s : State) (sl : SlotNo) (r : Slot) :
    (s.setSlot sl r).cfg = s.cfg := rfl
@[simp] theorem State.setSlot_dreg (s : State) (sl : SlotNo) (r : Slot) (r' : DReg) :
    (s.setSlot sl r).dreg r' = s.dreg r' := rfl
@[simp] theorem State.setSlot_frame (s : State) (sl : SlotNo) (r : Slot) (f' : FrameReg) :
    (s.setSlot sl r).frame f' = s.frame f' := rfl
@[simp] theorem State.setSlot_crc (s : State) (sl : SlotNo) (r : Slot) :
    (s.setSlot sl r).crc = s.crc := rfl
@[simp] theorem State.setSlot_status (s : State) (sl : SlotNo) (r : Slot) :
    (s.setSlot sl r).status = s.status := rfl
@[simp] theorem State.setSlot_seq (s : State) (sl : SlotNo) (r : Slot) :
    (s.setSlot sl r).seq = s.seq := rfl
@[simp] theorem State.setSlot_buf (s : State) (sl : SlotNo) (r : Slot) (t : SlotNo) :
    (s.setSlot sl r).buf t = s.buf t := rfl
@[simp] theorem State.setSlot_byteAt (s : State) (sl : SlotNo) (r : Slot) (t : SlotNo) (a : Nat) :
    (s.setSlot sl r).byteAt t a = s.byteAt t a := rfl
@[simp] theorem State.setSlot_bus (s : State) (sl : SlotNo) (r : Slot) :
    (s.setSlot sl r).bus = s.bus := rfl
/-- Reading any slot after setSlot. -/
theorem State.setSlot_slot (s : State) (sl : SlotNo) (r : Slot) (x : SlotNo) :
    (s.setSlot sl r).slot x = if x = sl then r else s.slot x := by
  unfold State.setSlot State.slot
  by_cases h : x = sl
  · subst h; simp
  · have : ¬ sl.toNat = x.toNat := fun e => h (BitVec.eq_of_toNat_eq e.symm)
    simp [h, this]
@[simp] theorem State.setSlot_slot_same (s : State) (sl : SlotNo) (r : Slot) : (s.setSlot sl r).slot sl = r := by
  simp [State.setSlot_slot]
@[simp] theorem State.setSlot_slot_other (s : State) (sl : SlotNo) (r : Slot) (x : SlotNo) (h : x ≠ sl) :
    (s.setSlot sl r).slot x = s.slot x := by
  simp [State.setSlot_slot, h]

/-! ## setBuf -/

@[simp] theorem State.setBuf_cfg (s : State) (sl : SlotNo) (m : Memory) :
    (s.setBuf sl m).cfg = s.cfg := rfl
@[simp] theorem State.setBuf_dreg (s : State) (sl : SlotNo) (m : Memory) (r' : DReg) :
    (s.setBuf sl m).dreg r' = s.dreg r' := rfl
@[simp] theorem State.setBuf_frame (s : State) (sl : SlotNo) (m : Memory) (f' : FrameReg) :
    (s.setBuf sl m).frame f' = s.frame f' := rfl
@[simp] theorem State.setBuf_crc (s : State) (sl : SlotNo) (m : Memory) :
    (s.setBuf sl m).crc = s.crc := rfl
@[simp] theorem State.setBuf_status (s : State) (sl : SlotNo) (m : Memory) :
    (s.setBuf sl m).status = s.status := rfl
@[simp] theorem State.setBuf_seq (s : State) (sl : SlotNo) (m : Memory) :
    (s.setBuf sl m).seq = s.seq := rfl
@[simp] theorem State.setBuf_slot (s : State) (sl : SlotNo) (m : Memory) (t : SlotNo) :
    (s.setBuf sl m).slot t = s.slot t := rfl
@[simp] theorem State.setBuf_bus (s : State) (sl : SlotNo) (m : Memory) :
    (s.setBuf sl m).bus = s.bus := rfl
/-- Reading any buf after setBuf. -/
theorem State.setBuf_buf (s : State) (sl : SlotNo) (m : Memory) (x : SlotNo) :
    (s.setBuf sl m).buf x = if x = sl then m else s.buf x := by
  unfold State.setBuf State.buf
  by_cases h : x = sl
  · subst h; simp
  · have : ¬ sl.toNat = x.toNat := fun e => h (BitVec.eq_of_toNat_eq e.symm)
    simp [h, this]
@[simp] theorem State.setBuf_buf_same (s : State) (sl : SlotNo) (m : Memory) : (s.setBuf sl m).buf sl = m := by
  simp [State.setBuf_buf]
@[simp] theorem State.setBuf_buf_other (s : State) (sl : SlotNo) (m : Memory) (x : SlotNo) (h : x ≠ sl) :
    (s.setBuf sl m).buf x = s.buf x := by
  simp [State.setBuf_buf, h]
/-- Reading any byte after setBuf. -/
theorem State.setBuf_byteAt (s : State) (sl : SlotNo) (m : Memory) (t : SlotNo) (a : Nat) :
    (s.setBuf sl m).byteAt t a = if t = sl then m.read a else s.byteAt t a := by
  unfold State.byteAt
  rw [State.setBuf_buf]
  split <;> rfl

/-! ## setSeq -/

@[simp] theorem State.setSeq_cfg (s : State) (q : Sequencer) :
    (s.setSeq q).cfg = s.cfg := rfl
@[simp] theorem State.setSeq_dreg (s : State) (q : Sequencer) (r' : DReg) :
    (s.setSeq q).dreg r' = s.dreg r' := rfl
@[simp] theorem State.setSeq_frame (s : State) (q : Sequencer) (f' : FrameReg) :
    (s.setSeq q).frame f' = s.frame f' := rfl
@[simp] theorem State.setSeq_crc (s : State) (q : Sequencer) :
    (s.setSeq q).crc = s.crc := rfl
@[simp] theorem State.setSeq_status (s : State) (q : Sequencer) :
    (s.setSeq q).status = s.status := rfl
@[simp] theorem State.setSeq_slot (s : State) (q : Sequencer) (t : SlotNo) :
    (s.setSeq q).slot t = s.slot t := rfl
@[simp] theorem State.setSeq_buf (s : State) (q : Sequencer) (t : SlotNo) :
    (s.setSeq q).buf t = s.buf t := rfl
@[simp] theorem State.setSeq_byteAt (s : State) (q : Sequencer) (t : SlotNo) (a : Nat) :
    (s.setSeq q).byteAt t a = s.byteAt t a := rfl
@[simp] theorem State.setSeq_bus (s : State) (q : Sequencer) :
    (s.setSeq q).bus = s.bus := rfl
@[simp] theorem State.setSeq_seq (s : State) (q : Sequencer) : (s.setSeq q).seq = q := rfl

/-! ## setCrc -/

@[simp] theorem State.setCrc_cfg (s : State) (c : BitVec 16) :
    (s.setCrc c).cfg = s.cfg := rfl
@[simp] theorem State.setCrc_dreg (s : State) (c : BitVec 16) (r' : DReg) :
    (s.setCrc c).dreg r' = s.dreg r' := rfl
@[simp] theorem State.setCrc_frame (s : State) (c : BitVec 16) (f' : FrameReg) :
    (s.setCrc c).frame f' = s.frame f' := rfl
@[simp] theorem State.setCrc_status (s : State) (c : BitVec 16) :
    (s.setCrc c).status = s.status := rfl
@[simp] theorem State.setCrc_seq (s : State) (c : BitVec 16) :
    (s.setCrc c).seq = s.seq := rfl
@[simp] theorem State.setCrc_slot (s : State) (c : BitVec 16) (t : SlotNo) :
    (s.setCrc c).slot t = s.slot t := rfl
@[simp] theorem State.setCrc_buf (s : State) (c : BitVec 16) (t : SlotNo) :
    (s.setCrc c).buf t = s.buf t := rfl
@[simp] theorem State.setCrc_byteAt (s : State) (c : BitVec 16) (t : SlotNo) (a : Nat) :
    (s.setCrc c).byteAt t a = s.byteAt t a := rfl
@[simp] theorem State.setCrc_bus (s : State) (c : BitVec 16) :
    (s.setCrc c).bus = s.bus := rfl
@[simp] theorem State.setCrc_crc (s : State) (c : BitVec 16) : (s.setCrc c).crc = c := rfl

/-! ## completed -/

@[simp] theorem State.completed_cfg (s : State) (op : BitVec 6) (c : ResultCode) :
    (s.completed op c).cfg = s.cfg := rfl
@[simp] theorem State.completed_dreg (s : State) (op : BitVec 6) (c : ResultCode) (r' : DReg) :
    (s.completed op c).dreg r' = s.dreg r' := rfl
@[simp] theorem State.completed_frame (s : State) (op : BitVec 6) (c : ResultCode) (f' : FrameReg) :
    (s.completed op c).frame f' = s.frame f' := rfl
@[simp] theorem State.completed_crc (s : State) (op : BitVec 6) (c : ResultCode) :
    (s.completed op c).crc = s.crc := rfl
@[simp] theorem State.completed_seq (s : State) (op : BitVec 6) (c : ResultCode) :
    (s.completed op c).seq = s.seq := rfl
@[simp] theorem State.completed_slot (s : State) (op : BitVec 6) (c : ResultCode) (t : SlotNo) :
    (s.completed op c).slot t = s.slot t := rfl
@[simp] theorem State.completed_buf (s : State) (op : BitVec 6) (c : ResultCode) (t : SlotNo) :
    (s.completed op c).buf t = s.buf t := rfl
@[simp] theorem State.completed_byteAt (s : State) (op : BitVec 6) (c : ResultCode) (t : SlotNo) (a : Nat) :
    (s.completed op c).byteAt t a = s.byteAt t a := rfl
@[simp] theorem State.completed_bus (s : State) (op : BitVec 6) (c : ResultCode) :
    (s.completed op c).bus = s.bus := rfl
@[simp] theorem State.completed_status (s : State) (op : BitVec 6) (c : ResultCode) :
    (s.completed op c).status = s.status.completed op c := rfl

/-! ## takeFault -/

@[simp] theorem State.takeFault_cfg (s : State) (op : BitVec 6) (c : FaultCause) :
    (s.takeFault op c).cfg = s.cfg := rfl
@[simp] theorem State.takeFault_dreg (s : State) (op : BitVec 6) (c : FaultCause) (r' : DReg) :
    (s.takeFault op c).dreg r' = s.dreg r' := rfl
@[simp] theorem State.takeFault_frame (s : State) (op : BitVec 6) (c : FaultCause) (f' : FrameReg) :
    (s.takeFault op c).frame f' = s.frame f' := rfl
@[simp] theorem State.takeFault_crc (s : State) (op : BitVec 6) (c : FaultCause) :
    (s.takeFault op c).crc = s.crc := rfl
@[simp] theorem State.takeFault_seq (s : State) (op : BitVec 6) (c : FaultCause) :
    (s.takeFault op c).seq = s.seq := rfl
@[simp] theorem State.takeFault_slot (s : State) (op : BitVec 6) (c : FaultCause) (t : SlotNo) :
    (s.takeFault op c).slot t = s.slot t := rfl
@[simp] theorem State.takeFault_buf (s : State) (op : BitVec 6) (c : FaultCause) (t : SlotNo) :
    (s.takeFault op c).buf t = s.buf t := rfl
@[simp] theorem State.takeFault_byteAt (s : State) (op : BitVec 6) (c : FaultCause) (t : SlotNo) (a : Nat) :
    (s.takeFault op c).byteAt t a = s.byteAt t a := rfl
@[simp] theorem State.takeFault_bus (s : State) (op : BitVec 6) (c : FaultCause) :
    (s.takeFault op c).bus = s.bus := rfl
@[simp] theorem State.takeFault_status (s : State) (op : BitVec 6) (c : FaultCause) :
    (s.takeFault op c).status = Status.faulted op c := rfl

/-! ## reply -/

@[simp] theorem State.reply_cfg (s : State) (v : Word) :
    (s.reply v).cfg = s.cfg := rfl
@[simp] theorem State.reply_dreg (s : State) (v : Word) (r' : DReg) :
    (s.reply v).dreg r' = s.dreg r' := rfl
@[simp] theorem State.reply_frame (s : State) (v : Word) (f' : FrameReg) :
    (s.reply v).frame f' = s.frame f' := rfl
@[simp] theorem State.reply_crc (s : State) (v : Word) :
    (s.reply v).crc = s.crc := rfl
@[simp] theorem State.reply_status (s : State) (v : Word) :
    (s.reply v).status = s.status := rfl
@[simp] theorem State.reply_seq (s : State) (v : Word) :
    (s.reply v).seq = s.seq := rfl
@[simp] theorem State.reply_slot (s : State) (v : Word) (t : SlotNo) :
    (s.reply v).slot t = s.slot t := rfl
@[simp] theorem State.reply_buf (s : State) (v : Word) (t : SlotNo) :
    (s.reply v).buf t = s.buf t := rfl
@[simp] theorem State.reply_byteAt (s : State) (v : Word) (t : SlotNo) (a : Nat) :
    (s.reply v).byteAt t a = s.byteAt t a := rfl
@[simp] theorem State.reply_pending (s : State) (v : Word) : (s.reply v).bus.pending = s.bus.pending := rfl
@[simp] theorem State.reply_replies (s : State) (v : Word) :
    (s.reply v).bus.replies = s.bus.replies ++ [v] := rfl

/-! ## withPending -/

@[simp] theorem State.withPending_cfg (s : State) (l : List HostAccess) :
    (s.withPending l).cfg = s.cfg := rfl
@[simp] theorem State.withPending_dreg (s : State) (l : List HostAccess) (r' : DReg) :
    (s.withPending l).dreg r' = s.dreg r' := rfl
@[simp] theorem State.withPending_frame (s : State) (l : List HostAccess) (f' : FrameReg) :
    (s.withPending l).frame f' = s.frame f' := rfl
@[simp] theorem State.withPending_crc (s : State) (l : List HostAccess) :
    (s.withPending l).crc = s.crc := rfl
@[simp] theorem State.withPending_status (s : State) (l : List HostAccess) :
    (s.withPending l).status = s.status := rfl
@[simp] theorem State.withPending_seq (s : State) (l : List HostAccess) :
    (s.withPending l).seq = s.seq := rfl
@[simp] theorem State.withPending_slot (s : State) (l : List HostAccess) (t : SlotNo) :
    (s.withPending l).slot t = s.slot t := rfl
@[simp] theorem State.withPending_buf (s : State) (l : List HostAccess) (t : SlotNo) :
    (s.withPending l).buf t = s.buf t := rfl
@[simp] theorem State.withPending_byteAt (s : State) (l : List HostAccess) (t : SlotNo) (a : Nat) :
    (s.withPending l).byteAt t a = s.byteAt t a := rfl
@[simp] theorem State.withPending_pending (s : State) (l : List HostAccess) :
    (s.withPending l).bus.pending = l := rfl
@[simp] theorem State.withPending_replies (s : State) (l : List HostAccess) :
    (s.withPending l).bus.replies = s.bus.replies := rfl

/-! ## STATUS -/

@[simp] theorem Status.completed_rc (t : Status) (op : BitVec 6) (c : ResultCode) : (t.completed op c).rc = c.code := rfl
@[simp] theorem Status.completed_flt (t : Status) (op : BitVec 6) (c : ResultCode) : (t.completed op c).flt = t.flt := rfl
@[simp] theorem Status.completed_cause (t : Status) (op : BitVec 6) (c : ResultCode) :
    (t.completed op c).cause = t.cause := rfl
@[simp] theorem Status.completed_lastop (t : Status) (op : BitVec 6) (c : ResultCode) :
    (t.completed op c).lastop = op := rfl
@[simp] theorem Status.faulted_rc (op : BitVec 6) (c : FaultCause) :
    (Status.faulted op c).rc = ResultCode.faulted.code := rfl
@[simp] theorem Status.faulted_flt (op : BitVec 6) (c : FaultCause) : (Status.faulted op c).flt = true := rfl
@[simp] theorem Status.faulted_cause (op : BitVec 6) (c : FaultCause) : (Status.faulted op c).cause = c.code := rfl
@[simp] theorem Status.faulted_lastop (op : BitVec 6) (c : FaultCause) : (Status.faulted op c).lastop = op := rfl

/-! ## Soft reset -/

@[simp] theorem State.softReset_cfg (s : State) : s.softReset.cfg = s.cfg := rfl
@[simp] theorem State.softReset_bus (s : State) : s.softReset.bus = s.bus := rfl
@[simp] theorem State.softReset_status (s : State) : s.softReset.status = Status.reset := rfl
@[simp] theorem State.softReset_crc (s : State) : s.softReset.crc = s.cfg.crcInit := rfl
@[simp] theorem State.softReset_seq (s : State) : s.softReset.seq = Sequencer.idle := rfl
@[simp] theorem State.softReset_frame (s : State) (f : FrameReg) : s.softReset.frame f = Frame.reset := by cases f <;> rfl
@[simp] theorem State.softReset_dreg (s : State) (r : DReg) : s.softReset.dreg r = 0 := by
  simp [State.softReset, State.resetOf, State.dreg]
@[simp] theorem State.softReset_slot (s : State) (t : SlotNo) : s.softReset.slot t = Slot.free := by
  simp [State.softReset, State.resetOf, State.slot]
@[simp] theorem State.softReset_buf (s : State) (t : SlotNo) : s.softReset.buf t = [] := by
  simp [State.softReset, State.resetOf, State.buf]

end Sys2Proof.Machine
end

