-- ==== Sys2Proof/Laws/Ops.lean ====
section
/-! SUPPORT. Everything a shared operation can do, said once: the memory primitives, the end of a command, fault entry and
rx_busy. -/

namespace Sys2Proof.Machine

/-! ## The memory primitives -/

/-- Everything MemRead can answer. -/
theorem State.memRead_eq_some {s : State} {sl : SlotNo} {off n : Nat} {bs : List Byte} :
    s.memRead sl off n = some bs ↔ s.inBuf sl off n ∧ bs = (s.buf sl).readN off n := by
  unfold State.memRead
  split
  · rename_i h; exact ⟨fun e => ⟨h, (Option.some.inj e).symm⟩, fun e => by rw [e.2]⟩
  · rename_i h; exact ⟨fun e => by simp at e, fun e => absurd e.1 h⟩

theorem State.memRead_of_inBuf {s : State} {sl : SlotNo} {off n : Nat} (h : s.inBuf sl off n) :
    s.memRead sl off n = some ((s.buf sl).readN off n) := by
  simp [State.memRead, h]

/-- Everything MemWrite can answer. -/
theorem State.memWrite_eq_some {s t : State} {sl : SlotNo} {off : Nat} {bs : List Byte} :
    s.memWrite sl off bs = some t ↔ s.inBuf sl off bs.length ∧ t = s.setBuf sl ((s.buf sl).writeN off bs) := by
  unfold State.memWrite
  split
  · rename_i h; exact ⟨fun e => ⟨h, (Option.some.inj e).symm⟩, fun e => by rw [e.2]⟩
  · rename_i h; exact ⟨fun e => by simp at e, fun e => absurd e.1 h⟩

theorem State.memWrite_of_inBuf {s : State} {sl : SlotNo} {off : Nat} {bs : List Byte} (h : s.inBuf sl off bs.length) :
    s.memWrite sl off bs = some (s.setBuf sl ((s.buf sl).writeN off bs)) := by
  simp [State.memWrite, h]

/-- Everything the scrub can answer. -/
theorem State.scrub_eq_some {s t : State} {sl : SlotNo} :
    s.scrub sl = some t ↔ sl.toNat < s.cfg.nslot ∧ t = s.setBuf sl ((s.buf sl).clear s.cfg.rabCap) := by
  unfold State.scrub
  split
  · rename_i h; simp [h.1, eq_comm]
  · rename_i h
    have : ¬ sl.toNat < s.cfg.nslot := fun h' => h ⟨h', by omega⟩
    simp [this]

theorem State.scrub_of_lt {s : State} {sl : SlotNo} (h : sl.toNat < s.cfg.nslot) :
    s.scrub sl = some (s.setBuf sl ((s.buf sl).clear s.cfg.rabCap)) :=
  State.scrub_eq_some.mpr ⟨h, rfl⟩

/-- What a byte is after a range was stored in a canonical slot. -/
theorem State.byteAt_stored (s : State) (sl : SlotNo) (off : Nat) (bs : List Byte) (k : Nat)
    (hw : (s.buf sl).wf = true) (hk : k < bs.length) :
    (s.setBuf sl ((s.buf sl).writeN off bs)).byteAt sl (off + k) = bs.getD k 0x00 := by
  simp only [State.byteAt, State.setBuf_buf_same]
  exact Memory.read_writeN_same bs _ off k hw hk

/-- A store of a range leaves every byte outside it alone. -/
theorem State.byteAt_not_stored (s : State) (sl : SlotNo) (off : Nat) (bs : List Byte) (x : SlotNo) (o : Nat)
    (h : ¬ (x = sl ∧ off ≤ o ∧ o < off + bs.length)) :
    (s.setBuf sl ((s.buf sl).writeN off bs)).byteAt x o = s.byteAt x o := by
  by_cases hx : x = sl
  · subst hx
    simp only [State.byteAt, State.setBuf_buf_same]
    exact Memory.read_writeN_other bs _ off o (by simp only [true_and] at h; omega)
  · simp [State.byteAt, State.setBuf_buf_other _ _ _ _ hx]

/-- What a byte is after the scrub. -/
theorem State.byteAt_scrubbed (s : State) (sl x : SlotNo) (lim o : Nat) :
    (s.setBuf sl ((s.buf sl).clear lim)).byteAt x o = if x = sl ∧ o < lim then 0x00 else s.byteAt x o := by
  by_cases hx : x = sl
  · subst hx
    simp [State.byteAt, Memory.read_clear]
  · simp [State.byteAt, State.setBuf_buf_other _ _ _ _ hx, hx]

/-! ## The end of a command and fault entry -/

/-- Everything a completion can answer. -/
theorem complete_eq_next {op : BitVec 6} {c : ResultCode} {s t : State} :
    complete op c s = .next t ↔ t = s.completed op c := by
  simp [complete, eq_comm]

/-- Everything fault entry can answer. -/
theorem raiseFault_eq_next {op : BitVec 6} {c : FaultCause} {s t : State} :
    raiseFault op c s = .next t ↔ t = s.takeFault op c := by
  simp [raiseFault, eq_comm]

/-! ## Slots -/

theorem Slot.keyed_iff (r : Slot) : r.keyed = true ↔ r.state = .opened ∨ r.state = .done := by
  simp [Slot.keyed]

/-- rx_busy as 00_scope.md R22 words it. -/
theorem State.rxBusy_iff (s : State) (sl : SlotNo) :
    s.rxBusy sl = true ↔
      ((s.slot sl).state = .opened ∧ ((s.slot sl).mode = .rxBam ∨ (s.slot sl).mode = .rxRts)) ∨
        ((s.slot sl).state = .seq ∧ s.seq.dir = .rx ∧ s.seq.mode ≠ .complete) := by
  unfold State.rxBusy
  cases h : (s.slot sl).state <;> simp

/-- The numbers of the slots that exist. -/
theorem State.mem_slotNos (s : State) (n : Nat) : n ∈ s.slotNos ↔ n < s.cfg.nslot := by
  simp [State.slotNos]

end Sys2Proof.Machine
end

