-- ==== Sys2Proof/Laws/Keeps.lean ====
section
/-! SUPPORT. `State.KeepsOutside` for each update of the state: what a sequence of updates keeps is read off update by
update. -/

namespace Sys2Proof.Machine

theorem State.KeepsOutside.refl (s : State) (p : Footprint) : s.KeepsOutside s p :=
  ⟨rfl, rfl, fun _ _ => rfl, fun _ _ => rfl, fun _ => rfl, fun _ => rfl, fun _ _ => rfl, fun _ _ _ => rfl⟩

theorem State.KeepsOutside.trans {s t u : State} {p : Footprint} (h : s.KeepsOutside t p) (h' : t.KeepsOutside u p) :
    s.KeepsOutside u p where
  cfg := h'.cfg.trans h.cfg
  bus := h'.bus.trans h.bus
  dregs r hr := (h'.dregs r hr).trans (h.dregs r hr)
  frames f hf := (h'.frames f hf).trans (h.frames f hf)
  crc hc := (h'.crc hc).trans (h.crc hc)
  seq hq := (h'.seq hq).trans (h.seq hq)
  slots x hx := (h'.slots x hx).trans (h.slots x hx)
  bytes x o ho := (h'.bytes x o ho).trans (h.bytes x o ho)

theorem State.keeps_completed (s : State) (op : BitVec 6) (c : ResultCode) (p : Footprint) :
    s.KeepsOutside (s.completed op c) p :=
  ⟨rfl, rfl, fun _ _ => rfl, fun f _ => by cases f <;> rfl, fun _ => rfl, fun _ => rfl, fun _ _ => rfl, fun _ _ _ => rfl⟩

theorem State.keeps_status (s : State) (u : Status) (p : Footprint) : s.KeepsOutside { s with status := u } p :=
  ⟨rfl, rfl, fun _ _ => rfl, fun f _ => by cases f <;> rfl, fun _ => rfl, fun _ => rfl, fun _ _ => rfl, fun _ _ _ => rfl⟩

theorem State.keeps_setDreg (s : State) (a : DReg) (v : Word) (p : Footprint) (h : a ∈ p.dregs) :
    s.KeepsOutside (s.setDreg a v) p :=
  ⟨rfl, rfl, fun r hr => State.setDreg_dreg_other s a v r (fun e => hr (e ▸ h)), fun f _ => by cases f <;> rfl,
   fun _ => rfl, fun _ => rfl, fun _ _ => rfl, fun _ _ _ => rfl⟩

theorem State.keeps_setFrame (s : State) (f : FrameReg) (fr : Frame) (p : Footprint) (h : f ∈ p.frames) :
    s.KeepsOutside (s.setFrame f fr) p :=
  ⟨by simp, by simp, fun r _ => by simp, fun g hg => State.setFrame_frame_other s f fr g (fun e => hg (e ▸ h)),
   fun _ => by simp, fun _ => by simp, fun x _ => by simp, fun x o _ => by simp⟩

theorem State.keeps_setCrc (s : State) (c : BitVec 16) (p : Footprint) (h : p.crc = true) :
    s.KeepsOutside (s.setCrc c) p :=
  ⟨rfl, rfl, fun _ _ => rfl, fun f _ => by cases f <;> rfl, fun e => by simp [h] at e, fun _ => rfl, fun _ _ => rfl,
   fun _ _ _ => rfl⟩

theorem State.keeps_setSeq (s : State) (q : Sequencer) (p : Footprint) (h : p.seq = true) :
    s.KeepsOutside (s.setSeq q) p :=
  ⟨rfl, rfl, fun _ _ => rfl, fun f _ => by cases f <;> rfl, fun _ => rfl, fun e => by simp [h] at e, fun _ _ => rfl,
   fun _ _ _ => rfl⟩

theorem State.keeps_setSlot (s : State) (sl : SlotNo) (r : Slot) (p : Footprint) (h : sl ∈ p.slots) :
    s.KeepsOutside (s.setSlot sl r) p :=
  ⟨rfl, rfl, fun _ _ => rfl, fun f _ => by cases f <;> rfl, fun _ => rfl, fun _ => rfl,
   fun x hx => State.setSlot_slot_other s sl r x (fun e => hx (e ▸ h)), fun _ _ _ => rfl⟩

/-- A store of a range. -/
theorem State.keeps_stored (s : State) (sl : SlotNo) (off : Nat) (bs : List Byte) (p : Footprint)
    (h : { sl := sl, off := off, n := bs.length } ∈ p.bytes) :
    s.KeepsOutside (s.setBuf sl ((s.buf sl).writeN off bs)) p :=
  ⟨rfl, rfl, fun _ _ => rfl, fun f _ => by cases f <;> rfl, fun _ => rfl, fun _ => rfl, fun _ _ => rfl,
   fun x o ho => State.byteAt_not_stored s sl off bs x o (ho _ h)⟩

/-- The scrub. -/
theorem State.keeps_scrubbed (s : State) (sl : SlotNo) (lim : Nat) (p : Footprint)
    (h : { sl := sl, off := 0, n := lim } ∈ p.bytes) :
    s.KeepsOutside (s.setBuf sl ((s.buf sl).clear lim)) p :=
  ⟨rfl, rfl, fun _ _ => rfl, fun f _ => by cases f <;> rfl, fun _ => rfl, fun _ => rfl, fun _ _ => rfl,
   fun x o ho => by
    rw [State.byteAt_scrubbed]
    have := ho _ h
    simp only [ByteRange.holds, Nat.zero_le, true_and, Nat.zero_add] at this
    rw [if_neg this]⟩

end Sys2Proof.Machine
end

