-- ==== Sys2Proof/Laws/Operands.lean ====
section
/-! SUPPORT. The operand forms: byte lists and integers, byte ranges of a frame, the frames the protocol commands build. -/

namespace Sys2Proof.Machine

/-! ## Byte lists and integers -/

@[simp] theorem length_toLE (v w : Nat) : (toLE v w).length = w := by
  induction w generalizing v with
  | zero => rfl
  | succ w ih => simp [toLE, ih]

@[simp] theorem length_toBE (v w : Nat) : (toBE v w).length = w := by simp [toBE]

@[simp] theorem length_fieldBytes (e : ByteOrder) (v : Word) (w : Nat) : (fieldBytes e v w).length = w := by
  cases e <;> simp [fieldBytes]

/-- LE inverts toLE. -/
theorem leValue_toLE (v w : Nat) : leValue (toLE v w) = v % 256 ^ w := by
  induction w generalizing v with
  | zero => simp [toLE, leValue, Nat.mod_one]
  | succ w ih =>
    simp only [toLE, leValue, ih, BitVec.toNat_ofNat]
    rw [show 256 ^ (w + 1) = 256 * 256 ^ w by rw [Nat.pow_succ, Nat.mul_comm], Nat.mod_mul]

/-- BE inverts toBE. -/
theorem beValue_toBE (v w : Nat) : beValue (toBE v w) = v % 256 ^ w := by
  simp [beValue, toBE, leValue_toLE]

/-- LE of a list is the sum 00_scope.md R18 gives. -/
theorem leValue_eq_leSum (bs : List Byte) : leValue bs = leSum (fun k => bs.getD k 0) bs.length := by
  induction bs with
  | nil => rfl
  | cons b t ih =>
    simp only [leValue, leSum, List.length_cons] at ih ⊢
    rw [Finset.sum_range_succ', ih, Finset.mul_sum, Nat.add_comm]
    congr 1
    · apply Finset.sum_congr rfl
      intro i _
      simp only [List.getD_cons_succ, Nat.pow_succ]
      ring
    · simp

/-- BE of a list is the sum 00_scope.md R18 gives. -/
theorem beValue_eq_beSum (bs : List Byte) : beValue bs = beSum (fun k => bs.getD k 0) bs.length := by
  simp only [beValue, leValue_eq_leSum, leSum, beSum, List.length_reverse]
  rw [← Finset.sum_range_reflect]
  apply Finset.sum_congr rfl
  intro i hi
  simp only [Finset.mem_range] at hi
  simp only [List.getD_eq_getElem?_getD]
  rw [List.getElem?_reverse (by omega)]
  congr 4
  omega

theorem leValue_lt (bs : List Byte) : leValue bs < 256 ^ bs.length := by
  induction bs with
  | nil => simp [leValue]
  | cons b t ih =>
    simp only [leValue, List.length_cons, Nat.pow_succ]
    have := b.isLt
    omega

theorem beValue_lt (bs : List Byte) : beValue bs < 256 ^ bs.length := by
  simpa [beValue] using leValue_lt bs.reverse

/-- The sums only look at the bytes below w. -/
theorem fieldSum_congr (e : ByteOrder) (b b' : Nat → Byte) (w : Nat) (h : ∀ k, k < w → b k = b' k) :
    fieldSum e b w = fieldSum e b' w := by
  cases e <;> simp only [fieldSum, beSum, leSum] <;>
    exact Finset.sum_congr rfl fun i hi => by rw [h i (Finset.mem_range.mp hi)]

/-- The value of a byte field of at most four bytes. -/
theorem fieldValue_toNat (e : ByteOrder) (bs : List Byte) (h : bs.length ≤ 4) :
    (fieldValue e bs).toNat = fieldSum e (fun k => bs.getD k 0) bs.length := by
  have hp : 256 ^ bs.length ≤ 2 ^ 32 := by
    calc 256 ^ bs.length ≤ 256 ^ 4 := Nat.pow_le_pow_right (by omega) h
      _ = 2 ^ 32 := by norm_num
  cases e
  · simp only [fieldValue, fieldSum, BitVec.toNat_ofNat, ← beValue_eq_beSum]
    exact Nat.mod_eq_of_lt (lt_of_lt_of_le (beValue_lt bs) hp)
  · simp only [fieldValue, fieldSum, BitVec.toNat_ofNat, ← leValue_eq_leSum]
    exact Nat.mod_eq_of_lt (lt_of_lt_of_le (leValue_lt bs) hp)

/-- The bytes a byte field is written as have its value. -/
theorem fieldSum_fieldBytes (e : ByteOrder) (v : Word) (w : Nat) :
    fieldSum e (fun k => (fieldBytes e v w).getD k 0) w = v.toNat % 256 ^ w := by
  cases e
  · have := beValue_eq_beSum (toBE v.toNat w)
    simp only [length_toBE, beValue_toBE] at this
    exact this.symm
  · have := leValue_eq_leSum (toLE v.toNat w)
    simp only [length_toLE, leValue_toLE] at this
    exact this.symm

/-! ## Byte ranges of a frame -/

theorem Frame.byte_of_lt (fr : Frame) (k : Nat) (h : k < 8) : fr.byte k = fr.data[k] := by
  simp [Frame.byte, List.getD, h]

theorem Frame.byte_zero (fr : Frame) : fr.byte 0 = fr.data[0] := Frame.byte_of_lt fr 0 (by omega)

theorem Frame.length_bytes (fr : Frame) (off n : Nat) : (fr.bytes off n).length = min n (8 - off) := by
  simp [Frame.bytes]

/-- Byte k of a range of a frame. -/
theorem Frame.getD_bytes (fr : Frame) (off n k : Nat) (d : Byte) (h : k < n) (h8 : off + k < 8) :
    (fr.bytes off n).getD k d = fr.byte (off + k) := by
  simp only [Frame.bytes, Frame.byte, List.getD]
  rw [List.getElem?_take_of_lt h, List.getElem?_drop]
  have : off + k < fr.data.toList.length := by simpa using h8
  rw [List.getElem?_eq_getElem this]
  rfl

/-- A range of a frame is the map of its bytes. -/
theorem Frame.bytes_eq_map (fr : Frame) (off n : Nat) (h : off + n ≤ 8) :
    fr.bytes off n = (List.range n).map (fun k => fr.byte (off + k)) := by
  have hl : (fr.bytes off n).length = n := by rw [Frame.length_bytes]; omega
  apply List.ext_getElem?
  intro k
  by_cases hk : k < n
  · have := Frame.getD_bytes fr off n k 0 hk (by omega)
    rw [List.getD_eq_getElem?_getD, List.getElem?_eq_getElem (by omega)] at this
    rw [List.getElem?_eq_getElem (by omega)]
    simp only [List.getElem?_map, List.getElem?_range hk, Option.map_some, Option.some.injEq]
    simpa using this
  · rw [List.getElem?_eq_none (by omega), List.getElem?_eq_none (by simpa using hk)]

/-- What byte k of a frame is after bytes were put from offset off on. -/
theorem getElem_putBytes (bs : List Byte) (v : Vector Byte 8) (off k : Nat) (h : k < 8) :
    (putBytes v off bs)[k] = if off ≤ k ∧ k < off + bs.length then bs.getD (k - off) 0 else v[k] := by
  induction bs generalizing v off with
  | nil =>
    simp [putBytes]
  | cons b t ih =>
    simp only [putBytes, ih, List.length_cons, Vector.getElem_setIfInBounds]
    by_cases h1 : off = k
    · subst h1
      simp
    · by_cases h2 : off + 1 ≤ k ∧ k < off + 1 + t.length
      · rw [if_pos h2, if_pos (by omega), show k - off = (k - (off + 1)) + 1 by omega, List.getD_cons_succ]
      · simp only [if_neg h2, if_neg h1]
        rw [if_neg (by omega)]

theorem Frame.byte_setBytes (fr : Frame) (off : Nat) (bs : List Byte) (k : Nat) (h : k < 8) :
    (fr.setBytes off bs).byte k = if off ≤ k ∧ k < off + bs.length then bs.getD (k - off) 0 else fr.byte k := by
  rw [Frame.byte_of_lt _ k h, Frame.byte_of_lt _ k h]
  exact getElem_putBytes bs fr.data off k h

theorem Frame.byte_past (fr : Frame) (k : Nat) (h : 8 ≤ k) : fr.byte k = 0 := by
  have : fr.data.toList.length ≤ k := by simpa using h
  simp [Frame.byte, List.getD, List.getElem?_eq_none this]

@[simp] theorem Frame.setBytes_id (fr : Frame) (off : Nat) (bs : List Byte) : (fr.setBytes off bs).id = fr.id := rfl
@[simp] theorem Frame.setBytes_ext (fr : Frame) (off : Nat) (bs : List Byte) : (fr.setBytes off bs).ext = fr.ext := rfl
@[simp] theorem Frame.setBytes_len (fr : Frame) (off : Nat) (bs : List Byte) : (fr.setBytes off bs).len = fr.len := rfl

/-! ## The frames the protocol commands build -/

/-- A frame a protocol command builds from a head byte and at most seven payload bytes. -/
theorem Frame.built_produced (fr : Frame) (head : Byte) (bs : List Byte) (pad : Byte) (b : Nat → Byte)
    (hl : bs.length ≤ 7) (hb : ∀ k, k < bs.length → bs.getD k pad = b k) :
    fr.Built (fr.produced (frameBytes head bs pad)) head.toNat bs.length b pad := by
  have hd : ∀ k, bs.length ≤ k → bs.getD k pad = pad := fun k hk => by
    simp [List.getD, List.getElem?_eq_none hk]
  have hbyte : ∀ k, k < 7 → (fr.produced (frameBytes head bs pad)).byte (1 + k) = bs.getD k pad := by
    intro k hk
    obtain rfl | rfl | rfl | rfl | rfl | rfl | rfl : k = 0 ∨ k = 1 ∨ k = 2 ∨ k = 3 ∨ k = 4 ∨ k = 5 ∨ k = 6 := by omega
    all_goals rfl
  refine ⟨rfl, rfl, rfl, rfl, fun k hk => ?_, fun k hk h8 => ?_⟩
  · rw [hbyte k (by omega), hb k hk]
  · rw [show k = 1 + (k - 1) by omega, hbyte (k - 1) (by omega), hd (k - 1) (by omega)]

end Sys2Proof.Machine
end

