-- ==== Sys2Proof/Laws/PerInstr.lean ====
section
/-! SUPPORT. The family OpcodeCarried: the encoding of every instruction carries that instruction's opcode in bits [31:26]
(spec/30_encoding.md R111, R125), one lemma per instruction. -/

namespace Sys2Proof.Laws.OpcodeCarried

/-- Bits [31:26] of the encoding are the opcode. -/
def Statement (i : Instr) : Prop := fieldOp (encode i) = i.opcode

theorem nop : Statement .nop := by
  apply BitVec.eq_of_toNat_eq
  rw [toNat_field]
  simp only [encode, toNat_encZ, Instr.opcode]
  omega

theorem ldi (a : DReg) (imm : BitVec 16) : Statement (.ldi a imm) := by
  apply BitVec.eq_of_toNat_eq
  rw [toNat_field]
  simp only [encode, toNat_encI, Instr.opcode]
  omega

theorem ldih (a : DReg) (imm : BitVec 16) : Statement (.ldih a imm) := by
  apply BitVec.eq_of_toNat_eq
  rw [toNat_field]
  simp only [encode, toNat_encI, Instr.opcode]
  omega

theorem finit (f : FrameReg) (a : DReg) (fmt : IdFormat) (len : BitVec 4) (fill : Byte) : Statement (.finit f a fmt len fill) := by
  apply BitVec.eq_of_toNat_eq
  rw [toNat_field]
  simp only [encode, toNat_encFI, Instr.opcode]
  omega

theorem fcopy (f g : FrameReg) : Statement (.fcopy f g) := by
  apply BitVec.eq_of_toNat_eq
  rw [toNat_field]
  simp only [encode, toNat_encFC, Instr.opcode]
  omega

theorem fgetb (e : ByteOrder) (a : DReg) (f : FrameReg) (off : BitVec 3) (w : Nat) : Statement (.fgetb e a f off w) := by
  apply BitVec.eq_of_toNat_eq
  rw [toNat_field]
  simp only [encode, toNat_encFB, Instr.opcode]
  omega

theorem fputb (e : ByteOrder) (f : FrameReg) (off : BitVec 3) (w : Nat) (a : DReg) : Statement (.fputb e f off w a) := by
  apply BitVec.eq_of_toNat_eq
  rw [toNat_field]
  simp only [encode, toNat_encFB, Instr.opcode]
  omega

theorem fgetx (a : DReg) (f : FrameReg) (sp : Space) (pos : BitVec 6) (n : Nat) : Statement (.fgetx a f sp pos n) := by
  apply BitVec.eq_of_toNat_eq
  rw [toNat_field]
  simp only [encode, toNat_encFX, Instr.opcode]
  omega

theorem fputx (f : FrameReg) (sp : Space) (pos : BitVec 6) (n : Nat) (a : DReg) : Statement (.fputx f sp pos n a) := by
  apply BitVec.eq_of_toNat_eq
  rw [toNat_field]
  simp only [encode, toNat_encFX, Instr.opcode]
  omega

theorem fclass (a : DReg) (f : FrameReg) : Statement (.fclass a f) := by
  apply BitVec.eq_of_toNat_eq
  rw [toNat_field]
  simp only [encode, toNat_encFK, Instr.opcode]
  omega

theorem crcclr : Statement .crcclr := by
  apply BitVec.eq_of_toNat_eq
  rw [toNat_field]
  simp only [encode, toNat_encZ, Instr.opcode]
  omega

theorem crcf (f : FrameReg) (off : BitVec 3) (n : BitVec 4) : Statement (.crcf f off n) := by
  apply BitVec.eq_of_toNat_eq
  rw [toNat_field]
  simp only [encode, toNat_encCF, Instr.opcode]
  omega

theorem crcb (sl : SlotNo) (a b : DReg) : Statement (.crcb sl a b) := by
  apply BitVec.eq_of_toNat_eq
  rw [toNat_field]
  simp only [encode, toNat_encCB, Instr.opcode]
  omega

theorem crcrd (a : DReg) : Statement (.crcrd a) := by
  apply BitVec.eq_of_toNat_eq
  rw [toNat_field]
  simp only [encode, toNat_encR1, Instr.opcode]
  omega

theorem crcchk (a : DReg) : Statement (.crcchk a) := by
  apply BitVec.eq_of_toNat_eq
  rw [toNat_field]
  simp only [encode, toNat_encR1, Instr.opcode]
  omega

theorem brd (e : ByteOrder) (a : DReg) (sl : SlotNo) (b : DReg) (w : Nat) : Statement (.brd e a sl b w) := by
  apply BitVec.eq_of_toNat_eq
  rw [toNat_field]
  simp only [encode, toNat_encBM, Instr.opcode]
  omega

theorem bwr (e : ByteOrder) (sl : SlotNo) (b : DReg) (w : Nat) (a : DReg) : Statement (.bwr e sl b w a) := by
  apply BitVec.eq_of_toNat_eq
  rw [toNat_field]
  simp only [encode, toNat_encBM, Instr.opcode]
  omega

theorem ftob (sl : SlotNo) (b : DReg) (f : FrameReg) (fo : BitVec 3) (n : BitVec 4) : Statement (.ftob sl b f fo n) := by
  apply BitVec.eq_of_toNat_eq
  rw [toNat_field]
  simp only [encode, toNat_encBF, Instr.opcode]
  omega

theorem btof (f : FrameReg) (fo : BitVec 3) (n : BitVec 4) (sl : SlotNo) (b : DReg) : Statement (.btof f fo n sl b) := by
  apply BitVec.eq_of_toNat_eq
  rw [toNat_field]
  simp only [encode, toNat_encBF, Instr.opcode]
  omega

theorem sqseg (sl : SlotNo) (a : DReg) (dir : Dir) (role : Role) (u : Bool) : Statement (.sqseg sl a dir role u) := by
  apply BitVec.eq_of_toNat_eq
  rw [toNat_field]
  simp only [encode, toNat_encSS, Instr.opcode]
  omega

theorem sqblk (sl : SlotNo) (a b : DReg) (dir : Dir) : Statement (.sqblk sl a b dir) := by
  apply BitVec.eq_of_toNat_eq
  rw [toNat_field]
  simp only [encode, toNat_encSB, Instr.opcode]
  omega

theorem sqsend (f : FrameReg) (cs : BitVec 3) : Statement (.sqsend f cs) := by
  apply BitVec.eq_of_toNat_eq
  rw [toNat_field]
  simp only [encode, toNat_encSF, Instr.opcode]
  omega

theorem sqrecv (f : FrameReg) (cs : BitVec 3) : Statement (.sqrecv f cs) := by
  apply BitVec.eq_of_toNat_eq
  rw [toNat_field]
  simp only [encode, toNat_encSF, Instr.opcode]
  omega

theorem sqbtx (f : FrameReg) : Statement (.sqbtx f) := by
  apply BitVec.eq_of_toNat_eq
  rw [toNat_field]
  simp only [encode, toNat_encSG, Instr.opcode]
  omega

theorem sqbrx (f : FrameReg) : Statement (.sqbrx f) := by
  apply BitVec.eq_of_toNat_eq
  rw [toNat_field]
  simp only [encode, toNat_encSG, Instr.opcode]
  omega

theorem sqback (a b : DReg) : Statement (.sqback a b) := by
  apply BitVec.eq_of_toNat_eq
  rw [toNat_field]
  simp only [encode, toNat_encSK, Instr.opcode]
  omega

theorem sqrel : Statement .sqrel := by
  apply BitVec.eq_of_toNat_eq
  rw [toNat_field]
  simp only [encode, toNat_encZ, Instr.opcode]
  omega

theorem raopen (sl : SlotNo) (a b c : DReg) : Statement (.raopen sl a b c) := by
  apply BitVec.eq_of_toNat_eq
  rw [toNat_field]
  simp only [encode, toNat_encRO, Instr.opcode]
  omega

theorem raclose (sl : SlotNo) : Statement (.raclose sl) := by
  apply BitVec.eq_of_toNat_eq
  rw [toNat_field]
  simp only [encode, toNat_encRS, Instr.opcode]
  omega

theorem rafind (a b c : DReg) : Statement (.rafind a b c) := by
  apply BitVec.eq_of_toNat_eq
  rw [toNat_field]
  simp only [encode, toNat_encRF, Instr.opcode]
  omega

theorem racts (sl : SlotNo) (a b : DReg) : Statement (.racts sl a b) := by
  apply BitVec.eq_of_toNat_eq
  rw [toNat_field]
  simp only [encode, toNat_encRW, Instr.opcode]
  omega

theorem ractstx (sl : SlotNo) (a b : DReg) : Statement (.ractstx sl a b) := by
  apply BitVec.eq_of_toNat_eq
  rw [toNat_field]
  simp only [encode, toNat_encRW, Instr.opcode]
  omega

theorem radpo (sl : SlotNo) (a b : DReg) : Statement (.radpo sl a b) := by
  apply BitVec.eq_of_toNat_eq
  rw [toNat_field]
  simp only [encode, toNat_encRW, Instr.opcode]
  omega

theorem radt (sl : SlotNo) (f : FrameReg) : Statement (.radt sl f) := by
  apply BitVec.eq_of_toNat_eq
  rw [toNat_field]
  simp only [encode, toNat_encRD, Instr.opcode]
  omega

theorem ratx (sl : SlotNo) (f : FrameReg) : Statement (.ratx sl f) := by
  apply BitVec.eq_of_toNat_eq
  rw [toNat_field]
  simp only [encode, toNat_encRD, Instr.opcode]
  omega

end Sys2Proof.Laws.OpcodeCarried
end

