-- ==== Sys2Proof/Tests/Slice0.lean ====
section
/-! SUPPORT. Tests: the well-formedness smoke test, one hand-written word per constructor, one step per instruction from the
spec's own examples, and for every statement with hypotheses a witness that meets them, clause by clause. -/

namespace Sys2Proof.Tests
open Machine

/-! ## Well-formedness: a term that no word encodes is refused -/

theorem test_wf_fgetb : Instr.wellFormed (.fgetb .be 0 .f0 0 0) = false ∧ Instr.wellFormed (.fgetb .be 0 .f0 0 5) = false := by
  decide
theorem test_wf_fputb : Instr.wellFormed (.fputb .le .f1 0 0 0) = false ∧ Instr.wellFormed (.fputb .le .f1 0 5 0) = false := by
  decide
theorem test_wf_fgetx : Instr.wellFormed (.fgetx 0 .f0 .ident 0 0) = false ∧
    Instr.wellFormed (.fgetx 0 .f0 .payload 0 33) = false := by decide
theorem test_wf_fputx : Instr.wellFormed (.fputx .f0 .ident 0 0 0) = false ∧
    Instr.wellFormed (.fputx .f0 .payload 0 33 0) = false := by decide
theorem test_wf_brd : Instr.wellFormed (.brd .be 0 0 0 0) = false ∧ Instr.wellFormed (.brd .be 0 0 0 5) = false := by decide
theorem test_wf_bwr : Instr.wellFormed (.bwr .be 0 0 0 0) = false ∧ Instr.wellFormed (.bwr .be 0 0 5 0) = false := by decide
theorem test_wf_accepts : Instr.wellFormed (.fgetb .be 0 .f0 0 1) = true ∧ Instr.wellFormed (.bwr .be 0 0 4 0) = true ∧
    Instr.wellFormed (.fgetx 0 .f0 .ident 0 1) = true ∧ Instr.wellFormed (.fputx .f0 .payload 63 32 0) = true := by decide

/-! ## Decoding: the words of the spec's examples (R136 and each rule's Example) -/

theorem test_decode_nop : decode 0x00000000#32 = .ok .nop := by decide
theorem test_decode_ldi : decode 0x04801234#32 = .ok (.ldi 1 0x1234) := by decide
theorem test_decode_ldih : decode 0x09001234#32 = .ok (.ldih 2 0x1234) := by decide
theorem test_decode_finit : decode 0x20002800#32 = .ok (.finit .f1 0 .std 8 0x00) := by decide
theorem test_decode_fcopy : decode 0x24001000#32 = .ok (.fcopy .f0 .f1) := by decide
theorem test_decode_fgetb : decode 0x29001280#32 = .ok (.fgetb .le 2 .f0 1 2) := by decide
theorem test_decode_fputb : decode 0x2C801280#32 = .ok (.fputb .le .f0 1 2 1) := by decide
theorem test_decode_fgetx : decode 0x31800FC4#32 = .ok (.fgetx 3 .f0 .payload 63 3) := by decide
theorem test_decode_fputx : decode 0x34800FC4#32 = .ok (.fputx .f0 .payload 63 3 1) := by decide
theorem test_decode_fclass : decode 0x38000000#32 = .ok (.fclass 0 .f0) := by decide
theorem test_decode_crcclr : decode 0x40000000#32 = .ok .crcclr := by decide
theorem test_decode_crcf : decode 0x440002E0#32 = .ok (.crcf .f0 1 7) := by decide
theorem test_decode_crcb : decode 0x49304000#32 = .ok (.crcb 1 2 3) := by decide
theorem test_decode_crcrd : decode 0x4E000000#32 = .ok (.crcrd 4) := by decide
theorem test_decode_crcchk : decode 0x50800000#32 = .ok (.crcchk 1) := by decide
theorem test_decode_brd : decode 0x60A00180#32 = .ok (.brd .be 1 0 2 4) := by decide
theorem test_decode_bwr : decode 0x64A00180#32 = .ok (.bwr .be 0 2 4 1) := by decide
theorem test_decode_ftob : decode 0x6800A2E0#32 = .ok (.ftob 2 0 .f1 1 7) := by decide
theorem test_decode_btof : decode 0x6C008880#32 = .ok (.btof .f0 4 4 2 0) := by decide
theorem test_decode_sqseg : decode 0x80800000#32 = .ok (.sqseg 0 1 .tx .client false) := by decide
theorem test_decode_sqblk : decode 0x84A06000#32 = .ok (.sqblk 1 1 2 .rx) := by decide
theorem test_decode_sqsend : decode 0x88002000#32 = .ok (.sqsend .f1 0) := by decide
theorem test_decode_sqrecv : decode 0x8C000200#32 = .ok (.sqrecv .f0 1) := by decide
theorem test_decode_sqbtx : decode 0x90002000#32 = .ok (.sqbtx .f1) := by decide
theorem test_decode_sqbrx : decode 0x94000000#32 = .ok (.sqbrx .f0) := by decide
theorem test_decode_sqback : decode 0x98A00000#32 = .ok (.sqback 1 2) := by decide
theorem test_decode_sqrel : decode 0x9C000000#32 = .ok .sqrel := by decide
theorem test_decode_raopen : decode 0xA0A64000#32 = .ok (.raopen 1 1 2 3) := by decide
theorem test_decode_raclose : decode 0xA4004000#32 = .ok (.raclose 1) := by decide
theorem test_decode_rafind : decode 0xA8140000#32 = .ok (.rafind 0 1 2) := by decide
theorem test_decode_racts : decode 0xAE504000#32 = .ok (.racts 1 4 5) := by decide
theorem test_decode_ractstx : decode 0xB0A0C000#32 = .ok (.ractstx 3 1 2) := by decide
theorem test_decode_radpo : decode 0xB4A00000#32 = .ok (.radpo 0 1 2) := by decide
theorem test_decode_radt : decode 0xB8004000#32 = .ok (.radt 1 .f0) := by decide
theorem test_decode_ratx : decode 0xBC006000#32 = .ok (.ratx 1 .f1) := by decide

/-- R130, R131: an unassigned opcode, and NOP's opcode with a reserved bit (R151). -/
theorem test_decode_illegal : decode 0x0C000000#32 = .error .illegalOp ∧ decode 0xFC000000#32 = .error .illegalOp ∧
    decode 0x00000001#32 = .error .illegalEnc ∧ decode 0xBE006000#32 = .error .illegalEnc := by decide

/-! ## One step per instruction: the Example of each rule -/

/-- The state after the command word w. -/
def after (w : Nat) (s : State) : State :=
  match step (s.withFetchWord 32 w) with
  | .next t => t
  | .fault _ => s
  | .refused _ => s

/-- A frame register's contents. -/
def frameOf (id : BitVec 29) (fmt : IdFormat) (data : Vector Byte 8) : Frame :=
  { id := id, ext := fmt, len := 8, data := data }

/-- The frame 23 00 20 00 31 32 33 34 of R178 and R185. -/
def sdoFrame : Frame := frameOf 0x601 .std #v[0x23, 0x00, 0x20, 0x00, 0x31, 0x32, 0x33, 0x34]

/-- The state after reset with "Hello, world!" in slot 0. -/
def hello : State :=
  State.reset.setBuf 0 (Memory.writeN [] 0
    [0x48, 0x65, 0x6C, 0x6C, 0x6F, 0x2C, 0x20, 0x77, 0x6F, 0x72, 0x6C, 0x64, 0x21])

/-- A segmented send of 13 bytes from slot 0 by the client (R202's example). -/
def segSend : State :=
  (hello.setSeq { Sequencer.idle with mode := .seg, total := 13 }).setSlot 0 { Slot.free with state := .seq }

/-- A block transfer of 20 bytes in slot 0. -/
def blkState (dir : Dir) : State :=
  (State.reset.setSeq { Sequencer.idle with mode := .blk, dir := dir, blksize := 2, total := 20 }).setSlot 0
    { Slot.free with state := .seq }

/-- The session of R254's example. -/
def bamSession : Slot := Slot.fresh .rxBam .tp 0x80 0xFF 0xFEEC 20

theorem test_nop : (after 0x00000000 State.reset).status.word = 0x00000000 := by decide
theorem test_ldi : (after 0x04801234 State.reset).dreg 1 = 0x00001234 := by decide
theorem test_ldih : (after 0x09001234 (State.reset.setDreg 2 0x5678)).dreg 2 = 0x12345678 := by decide
theorem test_finit : (after 0x20000800 (State.reset.setDreg 0 0x601)).f0 =
    frameOf 0x601 .std #v[0, 0, 0, 0, 0, 0, 0, 0] := by decide
theorem test_fcopy : (after 0x24001000 (State.reset.setFrame .f1 sdoFrame)).f0 = sdoFrame := by decide
theorem test_fgetb : (after 0x29001280 (State.reset.setFrame .f0 sdoFrame)).dreg 2 = 0x00002000 := by decide
theorem test_fgetb_be : (after 0x29000280 (State.reset.setFrame .f0 sdoFrame)).dreg 2 = 0x00000020 := by decide
theorem test_fputb : (after 0x2C801280 ((State.reset.setFrame .f0 (frameOf 0 .std #v[0, 0, 0, 0, 0, 0, 0, 0])).setDreg 1
    0x2000)).f0.data = #v[0x00, 0x00, 0x20, 0, 0, 0, 0, 0] := by decide
theorem test_fgetx : (after 0x31800FC4 (State.reset.setFrame .f0 sdoFrame)).dreg 3 = 1 := by decide
theorem test_fputx : (after 0x34800FC4 ((State.reset.setFrame .f0 (frameOf 0 .std #v[0, 0, 0, 0, 0, 0, 0, 0])).setDreg 1
    1)).f0.data = #v[0x20, 0, 0, 0, 0, 0, 0, 0] := by decide
theorem test_fclass : (after 0x38000000 (State.reset.setFrame .f0 (frameOf 0x18EBFF80 .ext #v[0, 0, 0, 0, 0, 0, 0, 0]))).dreg
    0 = 0x00FF8004 := by decide
theorem test_crcclr : (after 0x40000000 (State.reset.setCrc 0x31C3)).crc = 0x0000 := by decide
theorem test_crcf : (after 0x44000280 (State.reset.setFrame .f0
    (frameOf 0 .std #v[0x00, 0x31, 0x32, 0x33, 0x34, 0x35, 0x36, 0x37]))).crc = 0xD789 := by decide +kernel
theorem test_crcb : (after 0x48A00000 (hello.setDreg 2 13)).crc = 0x7ADE := by decide +kernel
theorem test_crcrd : (after 0x4E000000 (State.reset.setCrc 0x7ADE)).dreg 4 = 0x00007ADE := by decide
theorem test_crcchk : (after 0x50800000 ((State.reset.setCrc 0x7ADE).setDreg 1 0x7ADE)).status.rc = 0x00 ∧
    (after 0x50800000 ((State.reset.setCrc 0x7ADE).setDreg 1 0x7ADF)).status.rc = 0x1F := by decide
theorem test_brd : (after 0x60A00180 hello).dreg 1 = 0x48656C6C := by decide
theorem test_bwr : ((after 0x64A00180 (State.reset.setDreg 1 0x48656C6C)).buf 0).readN 0 4 = [0x48, 0x65, 0x6C, 0x6C] := by
  decide
theorem test_ftob : ((after 0x6800A880 (State.reset.setFrame .f1 sdoFrame)).buf 2).readN 0 4 = [0x31, 0x32, 0x33, 0x34] := by
  decide
theorem test_btof : (after 0x6C008880 ((State.reset.setFrame .f0 (frameOf 0x601 .std #v[0, 0, 0, 0, 0, 0, 0, 0])).setBuf 2
    [(0, 0x31), (1, 0x32), (2, 0x33), (3, 0x34)])).f0.data = #v[0, 0, 0, 0, 0x31, 0x32, 0x33, 0x34] := by decide
theorem test_sqseg : (after 0x80800000 (State.reset.setDreg 1 13)).seq = segSend.seq ∧
    ((after 0x80800000 (State.reset.setDreg 1 13)).slot 0).state = .seq := by decide
theorem test_sqblk : (after 0x84A06000 ((State.reset.setDreg 1 20).setDreg 2 2)).seq =
    { Sequencer.idle with mode := .blk, dir := .rx, slot := 1, blksize := 2, total := 20 } := by decide
theorem test_sqsend : (after 0x88002000 segSend).f1.data = #v[0x00, 0x48, 0x65, 0x6C, 0x6C, 0x6F, 0x2C, 0x20] ∧
    (after 0x88002000 segSend).seq.done = 7 ∧ (after 0x88002000 segSend).seq.sent = true := by decide
theorem test_sqrecv : (after 0x8C000200 ((segSend.setSeq { segSend.seq with done := 7, sent := true }).setFrame .f0
    (frameOf 0x581 .std #v[0x20, 0, 0, 0, 0, 0, 0, 0]))).seq = { segSend.seq with done := 7, tog := true } := by decide
theorem test_sqbtx : (after 0x90002000 (blkState .tx)).f1.data = #v[0x01, 0, 0, 0, 0, 0, 0, 0] ∧
    (after 0x90002000 ((blkState .tx).setSeq { (blkState .tx).seq with seqno := 1, done := 7 })).f1.data =
      #v[0x82, 0, 0, 0, 0, 0, 0, 0] := by decide
theorem test_sqbrx : (after 0x94000000 ((blkState .rx).setFrame .f0
    (frameOf 0 .std #v[0x01, 0x00, 0x01, 0x02, 0x03, 0x04, 0x05, 0x06]))).seq = { (blkState .rx).seq with seqno := 1, done := 7 } := by
  decide
theorem test_sqback : (after 0x98A00000 ((((blkState .tx).setSeq
    { (blkState .tx).seq with done := 14, seqno := 2, bend := true }).setDreg 1 1).setDreg 2 2)).seq =
      { (blkState .tx).seq with done := 7, bstart := 7 } := by decide
theorem test_sqrel : (after 0x9C000000 segSend).seq.mode = .idle ∧ ((after 0x9C000000 segSend).slot 0).state = .free := by
  decide
theorem test_raopen : (after 0xA0A64000 (((State.reset.setDreg 1 20).setDreg 2 0xFEEC).setDreg 3 0x0000FF80)).slot 1 =
    { bamSession with npkt := 3 } := by decide
theorem test_raclose : (after 0xA4004000 ((State.reset.setSlot 1 { bamSession with next := 3 }).setBuf 1 [(0, 0x10)])).slot 1 =
    Slot.free ∧ (after 0xA4004000 ((State.reset.setSlot 1 { bamSession with next := 3 }).setBuf 1 [(0, 0x10)])).buf 1 = [] := by
  decide
theorem test_rafind : (after 0xA8140000 ((State.reset.setSlot 1 bamSession).setDreg 1 0x0000FF80)).dreg 0 = 1 := by decide
theorem test_racts : (after 0xAE508000 ((State.reset.setSlot 2
    { Slot.fresh .rxRts .tp 0 0 0 33 with next := 4 }).setDreg 5 3)).dreg 4 = 0x00000402 := by decide
theorem test_ractstx : (after 0xB0A0C000 (((State.reset.setSlot 3 (Slot.fresh .txRts .tp 0 0 0 33)).setDreg 1 3).setDreg 2
    1)).slot 3 = { Slot.fresh .txRts .tp 0 0 0 33 with wcount := 3 } := by decide
theorem test_radpo : ((after 0xB4A00000 (((State.reset.setSlot 0
    { Slot.fresh .rxRts .etp 0 0 0 4000 with next := 256, wstart := 256, wcount := 255 }).setDreg 1 255).setDreg 2 255)).slot
      0).dpo = 255 := by decide
theorem test_radt : ((after 0xB8004000 ((State.reset.setSlot 1 bamSession).setFrame .f0
    (frameOf 0x18EBFF80 .ext #v[0x01, 0x10, 0x11, 0x12, 0x13, 0x14, 0x15, 0x16]))).buf 1).readN 0 7 =
      [0x10, 0x11, 0x12, 0x13, 0x14, 0x15, 0x16] := by decide
theorem test_ratx : (after 0xBC006000 ((State.reset.setSlot 1 { Slot.fresh .txBam .tp 0 0 0 20 with next := 3 }).setBuf 1
    [(14, 0x1E), (15, 0x1F), (16, 0x20), (17, 0x21), (18, 0x22), (19, 0x23)])).f1.data =
      #v[0x03, 0x1E, 0x1F, 0x20, 0x21, 0x22, 0x23, 0xFF] := by decide

/-- R344: fault entry, here by an unassigned opcode. R341: the next command is ignored. -/
theorem test_fault : (after 0x0C000000 State.reset).status.word = 0x030101FF ∧
    (after 0x04801234 (after 0x0C000000 State.reset)).dreg 1 = 0 := by decide

/-! ## States of the invariants, for the witnesses -/

theorem slotFree_ok (c : Config) : Slot.free.Ok c := ⟨by decide, by decide, fun h => absurd h (by decide)⟩

theorem slotSeq_ok (c : Config) : Slot.Ok c { Slot.free with state := .seq } :=
  ⟨by decide, by decide, fun h => absurd h (by decide)⟩

theorem reset_slot (x : SlotNo) : State.reset.slot x = Slot.free := by revert x; decide

theorem reset_buf (x : SlotNo) : State.reset.buf x = [] := by revert x; decide

theorem reset_slotsOk : State.reset.SlotsOk :=
  ⟨by decide, fun x => by rw [reset_slot]; exact slotFree_ok _, fun x _ => reset_slot x⟩

/-- A legal record put into an existing slot keeps the records legal. -/
theorem slotsOk_setSlot {s : State} (h : s.SlotsOk) (sl : SlotNo) (r : Slot) (hl : sl.toNat < s.cfg.nslot)
    (hr : r.Ok s.cfg) : (s.setSlot sl r).SlotsOk := by
  refine ⟨h.cfg, fun x => ?_, fun x hx => ?_⟩
  · rw [State.setSlot_slot]
    split
    · exact hr
    · exact h.each x
  · rw [State.setSlot_slot_other _ _ _ _ (fun e => by subst e; exact absurd hl (Nat.not_lt.mpr hx))]
    exact h.absent x hx

/-- Empty buffers are canonical. -/
theorem memOk_of_empty {s : State} (h : ∀ x, s.buf x = []) : s.MemOk :=
  ⟨fun x => by rw [h]; rfl, fun x c hc => by rw [h] at hc; cases hc⟩

theorem reset_memOk : State.reset.MemOk := memOk_of_empty reset_buf

/-- The sequencer state q over the reset state, its slot bound. -/
def withSeq (q : Sequencer) : State := (State.reset.setSeq q).setSlot q.slot { Slot.free with state := .seq }

/-- A segmented transfer at its first round, of one byte: the least size. -/
def segQ (dir : Dir) (role : Role) : Sequencer :=
  { Sequencer.idle with mode := .seg, dir := dir, role := role, slot := 3, total := 1 }

/-- A block transfer of the greatest size with the greatest block size, in the last slot. -/
def blkQ (dir : Dir) : Sequencer :=
  { Sequencer.idle with mode := .blk, dir := dir, slot := 3, blksize := 127, total := 4096 }

theorem seqOk_idle : State.reset.SeqOk :=
  ⟨by decide, fun h => absurd h (by decide), fun h => absurd h (by decide), fun h => absurd h (by decide)⟩

theorem seqOk_seg (q : Sequencer) (hs : q.slot.toNat < 4) (hm : q.mode = .seg) (h : q.SegOk Config.default) :
    (withSeq q).SeqOk :=
  ⟨hs, fun _ => h, fun e => by (rw [show (withSeq q).seq = q from rfl, hm] at e; cases e),
   fun e => by (rw [show (withSeq q).seq = q from rfl, hm] at e; cases e)⟩

theorem seqOk_blk (q : Sequencer) (hs : q.slot.toNat < 4) (hm : q.mode = .blk) (h : q.BlkOk Config.default) :
    (withSeq q).SeqOk :=
  ⟨hs, fun e => by (rw [show (withSeq q).seq = q from rfl, hm] at e; cases e), fun _ => h,
   fun e => by (rw [show (withSeq q).seq = q from rfl, hm] at e; cases e)⟩

theorem segQ_ok (dir : Dir) (role : Role) : (withSeq (segQ dir role)).SeqOk :=
  seqOk_seg _ (by cases dir <;> cases role <;> decide) rfl (by cases dir <;> cases role <;> constructor <;> decide)

theorem blkQ_ok (dir : Dir) : (withSeq (blkQ dir)).SeqOk :=
  seqOk_blk _ (by cases dir <;> decide) rfl (by cases dir <;> constructor <;> decide)

theorem withSeq_memOk (q : Sequencer) : (withSeq q).MemOk := memOk_of_empty reset_buf

theorem reset_inv : State.reset.Inv where
  frames := ⟨fun f _ => by cases f <;> decide⟩
  status := ⟨⟨.ok, rfl⟩, fun _ => by decide, fun h => absurd h (by decide)⟩
  mem := reset_memOk
  bind := ⟨fun h => absurd rfl h, fun x h => by (rw [reset_slot] at h; cases h), fun _ => rfl⟩
  keys := ⟨fun x y _ h => by (rw [reset_slot] at h; cases h)⟩
  slots := reset_slotsOk
  seq := seqOk_idle

/-- A session in slot 3 over the reset state. -/
def withSession (r : Slot) : State := State.reset.setSlot 3 r

theorem withSession_ok (r : Slot) (hk : r.keyed = true) (h : r.SessionOk Config.default) : (withSession r).SlotsOk :=
  slotsOk_setSlot reset_slotsOk 3 r (by decide)
    ⟨fun e => by (simp [Slot.keyed, e] at hk), fun e => by (simp [Slot.keyed, e] at hk), fun _ => h⟩

/-- Frames with all bytes equal to b. -/
def fullFrame (b : Byte) : Frame := frameOf 0 .std (Vector.replicate 8 b)

/-- The reset state with F[0] of length len. -/
def withLen (len : Fin 9) : State := State.reset.setFrame .f0 { fullFrame 0 with len := len }

/-- The reset state with D[0], D[1] and D[2]. -/
def withDregs (x y z : Word) : State := ((State.reset.setDreg 0 x).setDreg 1 y).setDreg 2 z

/-- The reset state with an unfinished receive in slot 0. -/
def busySlot : State := State.reset.setSlot 0 bamSession

theorem busySlot_busy : busySlot.RxBusy 0 := .inl (by decide)

theorem reset_not_busy (s : State) (x : SlotNo) (h : s.slot x = Slot.free) : ¬ s.RxBusy x := by
  rintro (h' | h') <;> rw [h] at h' <;> exact absurd h'.1 (by decide)

/-! ## Witnesses: for each statement with hypotheses, values that meet them, clause by clause -/

theorem witness_DecodeOfEncode : Instr.wellFormed (.fgetx 7 .f1 .ident 63 32) = true ∧ Instr.wellFormed (.bwr .le 7 7 1 7) = true := by
  decide
theorem witness_EncodeOfDecode : decode 0x33803FFE#32 = .ok (.fgetx 7 .f1 .ident 63 32) := by decide

theorem witness_StepRunsDecodedCommand :
    (State.reset.withPending [.write 0x00F 0x07FFFFFF]).bus.pending = .write 0x00F 0x07FFFFFF :: [] ∧
    (0x00F#12).toNat / 4 = 3 ∧ State.reset.status.flt = false ∧ decode 0x0780FFFF#32 = .ok (.ldi 7 0xFFFF) ∧
    (0x010#12).toNat / 4 ≠ 3 ∧ (0x00B#12).toNat / 4 ≠ 3 ∧ State.reset.bus.pending = [] ∧
    (State.reset.withPending [.read 0xFFF]).bus.pending = .read 0xFFF :: [] := by decide

theorem witness_IllegalWordsFault :
    State.reset.status.flt = false ∧ (0x00C#12).toNat / 4 = 3 ∧
    (∀ op ∈ [0x03, 0x07, 0x0F, 0x15, 0x17, 0x1C, 0x1F, 0x30, 0x3F], (BitVec.ofNat 32 (op * 2 ^ 26)).toNat / 2 ^ 26 = op) ∧
    (⟨0x00, 0xFFFFFFFF⟩ : OpcodeRow) ∈ opcodeRows ∧ 0x00000001#32 &&& 0xFFFFFFFF#32 &&& 0x03FFFFFF#32 ≠ 0#32 ∧
    (⟨0x2F, 0xFFFE1FFF⟩ : OpcodeRow) ∈ opcodeRows ∧ (0xBE000000#32).toNat / 2 ^ 26 = 0x2F ∧
    0xBE000000#32 &&& 0xFFFE1FFF#32 &&& 0x03FFFFFF#32 ≠ 0#32 := by decide

theorem witness_FaultIsSticky :
    (after 0x0C000000 State.reset).status.flt = true ∧
    ((after 0x0C000000 State.reset).withPending [.write 0x00C 0, .hardReset]).bus.pending = .write 0x00C 0 :: [.hardReset] ∧
    (0x007#12).toNat / 4 = 1 ∧ (0xFFFFFFFF#32).getLsbD 0 = true ∧ (0xFFFFFFFE#32).getLsbD 0 = false := by decide

theorem witness_OutcomesPerCommand : (∃ t, exec .nop State.reset = .next t) ∧ (∃ t, exec (.ratx 7 .f0) State.reset = .next t) :=
  ⟨⟨_, rfl⟩, ⟨_, rfl⟩⟩

theorem witness_RefusalsChangeOnlyStatus :
    (∃ t, exec (.crcchk 0) (State.reset.setDreg 0 1) = .next t ∧ t.status.rc = ResultCode.crcMismatch.code) ∧
    (∃ t, exec (.rafind 0 1 2) State.reset = .next t ∧ t.status.rc = ResultCode.notFound.code) ∧
    ResultCode.crcMismatch.success = false ∧ ResultCode.notFound.success = false :=
  ⟨⟨_, rfl, rfl⟩, ⟨_, rfl, rfl⟩, rfl, rfl⟩

theorem witness_CommandsKeepOutside : Instr.wellFormed (.bwr .be 3 0 4 0) = true ∧
    ∃ t, exec (.bwr .be 3 0 4 0) State.reset = .next t := ⟨by decide, _, rfl⟩

theorem witness_SessionsAreIndependent : (Instr.raclose 3).slotField ≠ some 0 ∧ Instr.sqrel.slotField = none ∧
    (3 : SlotNo) ≠ State.reset.seq.slot ∧ (∃ t, exec (.raclose 3) State.reset = .next t) ∧
    ∃ t, exec .sqrel State.reset = .next t := ⟨by decide, rfl, by decide, ⟨_, rfl⟩, ⟨_, rfl⟩⟩

theorem witness_UnmappedOffsets : State.reset.cfg.wf ∧ ∀ off ∈ [0x014, 0x01F, 0x060, 0x07F, 0x090, 0x0FF, 0x180, 0xFFF],
    ¬ (off / 4 * 4 ≤ 0x010 ∨ (0x020 ≤ off / 4 * 4 ∧ off / 4 * 4 < 0x060) ∨ (0x080 ≤ off / 4 * 4 ∧ off / 4 * 4 ≤ 0x08C) ∨
      (0x100 ≤ off / 4 * 4 ∧ off / 4 * 4 < 0x100 + 0x20 * State.reset.cfg.nslot)) := by decide

theorem witness_HostReadsRegisters : (0x003#12).toNat / 4 * 4 = 0x000 ∧ (0x007#12).toNat / 4 * 4 = 0x004 ∧
    (0x00F#12).toNat / 4 * 4 = 0x00C ∧ (0x00B#12).toNat / 4 * 4 = 0x008 ∧ (0x013#12).toNat / 4 * 4 = 0x010 ∧
    (0x023#12).toNat / 4 * 4 = 0x020 + 4 * (0 : DReg).toNat ∧
    (0x03C#12).toNat / 4 * 4 = 0x020 + 4 * (7 : DReg).toNat ∧ (0x040#12).toNat / 4 * 4 = 0x040 + 16 * FrameReg.f0.bit.toNat ∧
    (0x057#12).toNat / 4 * 4 = 0x044 + 16 * FrameReg.f1.bit.toNat ∧ (0x049#12).toNat / 4 * 4 = 0x048 + 16 * FrameReg.f0.bit.toNat ∧
    (0x05F#12).toNat / 4 * 4 = 0x04C + 16 * FrameReg.f1.bit.toNat := by decide

theorem witness_HostReadsTransferState : State.reset.cfg.wf ∧ (0x083#12).toNat / 4 * 4 = 0x080 ∧
    (0x087#12).toNat / 4 * 4 = 0x084 ∧ (0x08B#12).toNat / 4 * 4 = 0x088 ∧ (0x08F#12).toNat / 4 * 4 = 0x08C ∧
    (3 : SlotNo).toNat < State.reset.cfg.nslot ∧
    (∀ k ∈ [0x00, 0x04, 0x08, 0x0C, 0x10, 0x14, 0x18, 0x1C],
      (BitVec.ofNat 12 (0x160 + k)).toNat / 4 * 4 = 0x100 + 0x20 * (3 : SlotNo).toNat + k) := by decide

theorem witness_HostWritesRegisters : (0x003#12).toNat / 4 * 4 = 0x000 ∧ (0x00B#12).toNat / 4 * 4 = 0x008 ∧
    0x080 ≤ (0x080#12).toNat / 4 * 4 ∧ (0x08F#12).toNat / 4 * 4 ≤ 0x08C ∧ 0x100 ≤ (0x100#12).toNat / 4 * 4 ∧
    (0x03F#12).toNat / 4 * 4 = 0x020 + 4 * (7 : DReg).toNat ∧ (0x013#12).toNat / 4 * 4 = 0x010 ∧
    0x040 + 16 * FrameReg.f0.bit.toNat ≤ (0x040#12).toNat / 4 * 4 ∧ (0x04F#12).toNat / 4 * 4 < 0x050 + 16 * FrameReg.f0.bit.toNat ∧
    0x040 + 16 * FrameReg.f1.bit.toNat ≤ (0x050#12).toNat / 4 * 4 ∧
    (0x05F#12).toNat / 4 * 4 < 0x050 + 16 * FrameReg.f1.bit.toNat := by decide

theorem witness_ResetsLeaveResetState : (0x007#12).toNat / 4 = 1 ∧ (0x00000001#32).getLsbD 0 = true ∧
    (0xFFFFFFFE#32).getLsbD 0 = false ∧ (busySlot.withPending [.hardReset]).bus.pending = .hardReset :: [] := by decide

theorem witness_FramesConstructedAndCopied : 8 < (9 : BitVec 4).toNat ∧ (8 : BitVec 4).toNat ≤ 8 ∧
    0x800 ≤ ((withDregs 0x800 0 0).dreg 0).toNat ∧ 0x20000000 ≤ ((withDregs 0x20000000 0 0).dreg 0).toNat ∧
    ((withDregs 0x7FF 0 0).dreg 0).toNat < 0x800 ∧ ((withDregs 0x1FFFFFFF 0 0).dreg 0).toNat < 0x20000000 := by decide

theorem witness_FgetbReads : 1 ≤ 1 ∧ 4 ≤ 4 ∧ ((withLen 8).frame .f0).len.val < (7 : BitVec 3).toNat + 2 ∧
    (4 : BitVec 3).toNat + 4 ≤ ((withLen 8).frame .f0).len.val ∧ (0 : BitVec 3).toNat + 1 ≤ ((withLen 1).frame .f0).len.val := by
  decide

theorem witness_FputbWrites : ((withLen 0).frame .f0).len.val < (0 : BitVec 3).toNat + 1 ∧
    (7 : BitVec 3).toNat + 1 ≤ ((withLen 8).frame .f0).len.val ∧ (4 : BitVec 3).toNat + 4 ≤ ((withLen 8).frame .f0).len.val := by
  decide

theorem witness_FgetxReads :
    ¬ ((withLen 8).frame .f0).FieldLegal .payload 30 32 ∧ ((withLen 8).frame .f0).FieldLegal .payload 31 32 ∧
    ((withLen 1).frame .f0).FieldLegal .payload 63 8 ∧ ¬ ((withLen 1).frame .f0).FieldLegal .payload 63 9 ∧
    ((withLen 0).frame .f0).FieldLegal .ident 10 11 ∧ ¬ ((withLen 0).frame .f0).FieldLegal .ident 11 1 := by
  refine ⟨fun h => absurd h.1 (by decide), ⟨by decide, ?_⟩, ⟨by decide, ?_⟩, fun h => ?_, ⟨by decide, ?_⟩, fun h => ?_⟩
  · show 64 - 8 * ((withLen 8).frame .f0).len.val ≤ 31 + 1 - 32; decide
  · show 64 - 8 * ((withLen 1).frame .f0).len.val ≤ 63 + 1 - 8; decide
  · exact absurd (show 64 - 8 * ((withLen 1).frame .f0).len.val ≤ 63 + 1 - 9 from h.2) (by decide)
  · show 10 < 11; decide
  · exact absurd (show 11 < 11 from h.2) (by decide)

theorem witness_FputxWrites : 1 ≤ 32 ∧ ((withLen 8).frame .f0).FieldLegal .payload 0 1 ∧
    (State.reset.setFrame .f1 (frameOf 0 .ext (Vector.replicate 8 0))).f1.FieldLegal .ident 28 29 ∧
    ¬ ((withLen 8).frame .f0).FieldLegal .ident 0 2 := by
  refine ⟨by decide, ⟨by decide, ?_⟩, ⟨by decide, ?_⟩, fun h => absurd h.1 (by decide)⟩
  · show 64 - 8 * ((withLen 8).frame .f0).len.val ≤ 0 + 1 - 1; decide
  · show 28 < 29; decide

theorem witness_FclassClassifies : (State.reset.frame .f0).ext = .std ∧
    ((State.reset.setFrame .f0 (frameOf 0x18EBFF80 .ext (Vector.replicate 8 0))).frame .f0).ext = .ext := by decide

theorem witness_CrcfFeedsFrameBytes : 8 < (9 : BitVec 4).toNat ∧ ((withLen 8).frame .f0).len.val < (7 : BitVec 3).toNat + 2 ∧
    (0 : BitVec 3).toNat + (8 : BitVec 4).toNat ≤ ((withLen 8).frame .f0).len.val ∧
    (7 : BitVec 3).toNat + (0 : BitVec 4).toNat ≤ ((withLen 7).frame .f0).len.val := by decide

theorem witness_CrcbFeedsBufferBytes : State.reset.cfg.nslot ≤ (4 : SlotNo).toNat ∧ (3 : SlotNo).toNat < State.reset.cfg.nslot ∧
    busySlot.RxBusy 0 ∧ (∀ x, ¬ State.reset.RxBusy x) ∧
    State.reset.cfg.rabCap < ((withDregs 4096 1 0).dreg 0).toNat + ((withDregs 4096 1 0).dreg 1).toNat ∧
    ((withDregs 4096 0 0).dreg 0).toNat + ((withDregs 4096 0 0).dreg 1).toNat ≤ State.reset.cfg.rabCap :=
  ⟨by decide, by decide, busySlot_busy, fun x => reset_not_busy _ x (reset_slot x), by decide, by decide⟩

theorem witness_BrdReads : (0 : SlotNo).toNat < busySlot.cfg.nslot ∧ busySlot.RxBusy 0 ∧ ¬ (withDregs 0 4093 4092).RxBusy 3 ∧
    (withDregs 0 4093 4092).cfg.rabCap < ((withDregs 0 4093 4092).dreg 1).toNat + 4 ∧
    ((withDregs 0 4093 4092).dreg 2).toNat + 4 ≤ (withDregs 0 4093 4092).cfg.rabCap :=
  ⟨by decide, busySlot_busy, reset_not_busy _ _ (by decide), by decide, by decide⟩

theorem witness_BwrWrites : (withDregs 0 4096 4095).MemOk ∧ ¬ (withDregs 0 4096 4095).RxBusy 3 ∧
    (withDregs 0 4096 4095).cfg.rabCap < ((withDregs 0 4096 4095).dreg 1).toNat + 1 ∧
    ((withDregs 0 4096 4095).dreg 2).toNat + 1 ≤ (withDregs 0 4096 4095).cfg.rabCap ∧ busySlot.RxBusy 0 ∧ busySlot.MemOk :=
  ⟨memOk_of_empty reset_buf, reset_not_busy _ _ (by decide), by decide, by decide, busySlot_busy, memOk_of_empty reset_buf⟩

theorem witness_FtobCopies : (withDregs 4088 4089 0).MemOk ∧ State.reset.cfg.nslot ≤ (7 : SlotNo).toNat ∧
    8 < (15 : BitVec 4).toNat ∧ ((withLen 8).frame .f0).len.val < (1 : BitVec 3).toNat + (8 : BitVec 4).toNat ∧
    ((withDregs 4088 4089 0).dreg 0).toNat + (8 : BitVec 4).toNat ≤ (withDregs 4088 4089 0).cfg.rabCap ∧
    (withDregs 4088 4089 0).cfg.rabCap < ((withDregs 4088 4089 0).dreg 1).toNat + (8 : BitVec 4).toNat ∧
    ¬ (8 < (8 : BitVec 4).toNat ∨ ((withLen 8).frame .f0).len.val < (0 : BitVec 3).toNat + (8 : BitVec 4).toNat) ∧
    busySlot.RxBusy 0 ∧ ¬ (withLen 8).RxBusy 3 :=
  ⟨memOk_of_empty reset_buf, by decide, by decide, by decide, by decide, by decide, by decide, busySlot_busy,
   reset_not_busy _ _ (by decide)⟩

theorem witness_BtofCopies : State.reset.cfg.nslot ≤ (4 : SlotNo).toNat ∧ 8 < (9 : BitVec 4).toNat ∧
    ¬ (8 < (0 : BitVec 4).toNat ∨ ((withLen 0).frame .f0).len.val < (0 : BitVec 3).toNat + (0 : BitVec 4).toNat) ∧
    busySlot.RxBusy 0 ∧ ¬ (withLen 0).RxBusy 3 ∧
    ((withDregs 4096 4097 0).dreg 0).toNat + (0 : BitVec 4).toNat ≤ (withDregs 4096 4097 0).cfg.rabCap ∧
    (withDregs 4096 4097 0).cfg.rabCap < ((withDregs 4096 4097 0).dreg 1).toNat + (0 : BitVec 4).toNat :=
  ⟨by decide, by decide, by decide, busySlot_busy, reset_not_busy _ _ (by decide), by decide, by decide⟩

theorem witness_SqsegStarts : State.reset.cfg.nslot ≤ (4 : SlotNo).toNat ∧ (segSend.seq.mode ≠ .idle) ∧
    (State.reset.seq.mode = .idle) ∧ (busySlot.slot 0).state ≠ .free ∧ (State.reset.slot 3).state = .free ∧
    ((withDregs 0 4097 4096).dreg 0).toNat = 0 ∧ State.reset.cfg.rabCap < ((withDregs 0 4097 4096).dreg 1).toNat ∧
    ¬ (((withDregs 0 4097 4096).dreg 2).toNat = 0 ∨ State.reset.cfg.rabCap < ((withDregs 0 4097 4096).dreg 2).toNat) := by decide

theorem witness_SqblkStarts : (3 : SlotNo).toNat < State.reset.cfg.nslot ∧ State.reset.seq.mode = .idle ∧
    (State.reset.slot 3).state = .free ∧ ((withDregs 0 128 127).dreg 0).toNat < 1 ∧ 127 < ((withDregs 0 128 127).dreg 1).toNat ∧
    ((withDregs 0 128 127).dreg 2).toNat ≤ 127 ∧ 1 ≤ ((withDregs 4096 1 0).dreg 1).toNat ∧
    State.reset.cfg.rabCap < ((withDregs 4097 1 0).dreg 0).toNat ∧
    ¬ (((withDregs 4096 1 0).dreg 0).toNat = 0 ∨ State.reset.cfg.rabCap < ((withDregs 4096 1 0).dreg 0).toNat) := by decide

theorem witness_SqsendBuildsSegment : (withSeq (segQ .tx .client)).cfg.wf ∧ (withSeq (segQ .tx .client)).SeqOk ∧
    (withSeq (segQ .rx .client)).SeqOk ∧ (segQ .tx .client).mode = .seg ∧ (segQ .tx .client).sent = false ∧
    (withSeq { segQ .tx .server with rcvd := true }).SeqOk ∧ (withSeq { segQ .rx .server with rcvd := true }).SeqOk ∧
    (segQ .tx .server).rcvd = false :=
  ⟨by decide, segQ_ok .tx .client, segQ_ok .rx .client, rfl, rfl,
   seqOk_seg _ (by decide) rfl (by constructor <;> decide), seqOk_seg _ (by decide) rfl (by constructor <;> decide), rfl⟩

theorem witness_SqrecvRefuses : (segQ .rx .server).mode = .seg ∧ (segQ .rx .server).rcvd = false ∧
    ((withLen 7).frame .f0).len ≠ 8 ∧ ((withLen 8).frame .f0).len = 8 ∧
    (((fullFrame 0x20).byte 0).toNat / 32 ≠ (0 : BitVec 3).toNat) ∧
    (((fullFrame 0x10).byte 0).toNat / 16 % 2 ≠ (segQ .rx .server).tog.toNat) ∧
    (segQ .rx .server).total.toNat < (segQ .rx .server).done.toNat + (7 - ((fullFrame 0x0A).byte 0).toNat / 2 % 8) ∧
    (((fullFrame 0x0F).byte 0).toNat % 2 = 1 ∧
      (segQ .rx .server).done.toNat + (7 - ((fullFrame 0x0F).byte 0).toNat / 2 % 8) < (segQ .rx .server).total.toNat) := by decide

theorem witness_SqrecvTakesSegment :
    (withSeq (segQ .rx .server)).SeqOk ∧ (withSeq (segQ .rx .server)).MemOk ∧ (withSeq (segQ .rx .server)).cfg.wf ∧
    (segQ .rx .server).rcvd = false ∧ ((fullFrame 0x0D).byte 0).toNat / 32 = (0 : BitVec 3).toNat ∧
    ((fullFrame 0x0D).byte 0).toNat / 16 % 2 = (segQ .rx .server).tog.toNat ∧
    (segQ .rx .server).done.toNat + (7 - ((fullFrame 0x0D).byte 0).toNat / 2 % 8) = (segQ .rx .server).total.toNat ∧
    (withSeq { segQ .tx .client with sent := true, done := 1, fin := true }).SeqOk ∧
    (withSeq { segQ .rx .client with sent := true, unk := true, total := 0 }).SeqOk :=
  ⟨segQ_ok .rx .server, withSeq_memOk _, by decide, by decide, by decide, by decide, by decide,
   seqOk_seg _ (by decide) rfl (by constructor <;> decide), seqOk_seg _ (by decide) rfl (by constructor <;> decide)⟩

theorem witness_SqbtxBuildsSegment : (withSeq (blkQ .tx)).SeqOk ∧ (withSeq (blkQ .tx)).cfg.wf ∧ (blkQ .tx).mode = .blk ∧
    (blkQ .tx).bend = false ∧ (blkQ .rx).dir ≠ .tx ∧
    (withSeq { blkQ .tx with seqno := 126, done := 882 }).SeqOk ∧
    (withSeq { blkQ .tx with bstart := 4095, done := 4095 }).SeqOk :=
  ⟨blkQ_ok .tx, by decide, rfl, rfl, by decide, seqOk_blk _ (by decide) rfl (by constructor <;> decide),
   seqOk_blk _ (by decide) rfl (by constructor <;> decide)⟩

theorem witness_SqbrxTakesSegment : (withSeq (blkQ .rx)).SeqOk ∧ (withSeq (blkQ .rx)).MemOk ∧ (blkQ .rx).bend = false ∧
    ((fullFrame 0x80).byte 0).toNat % 128 = 0 ∧ ((fullFrame 0x81).byte 0).toNat % 128 = (blkQ .rx).seqno.toNat + 1 ∧
    (blkQ .rx).seqno.toNat + 1 < ((fullFrame 0x02).byte 0).toNat % 128 ∧
    (withSeq { blkQ .rx with seqno := 1, done := 7 }).SeqOk ∧ ((fullFrame 0x01).byte 0).toNat % 128 ≤ 1 :=
  ⟨blkQ_ok .rx, withSeq_memOk _, rfl, by decide, by decide, by decide,
   seqOk_blk _ (by decide) rfl (by constructor <;> decide), by decide⟩

theorem witness_SqbackAcknowledges : (withSeq (blkQ .rx)).SeqOk ∧ (withSeq (blkQ .rx)).cfg.wf ∧
    (withSeq { blkQ .tx with seqno := 127, done := 889, bend := true }).SeqOk ∧ (blkQ .tx).bend = false ∧
    ((withDregs 128 127 1).dreg 1).toNat ≤ 127 ∧ 1 ≤ ((withDregs 128 127 1).dreg 2).toNat ∧
    127 < ((withDregs 128 127 1).dreg 0).toNat ∧
    (withSeq { blkQ .tx with total := 7, seqno := 1, done := 7, bend := true }).SeqOk :=
  ⟨blkQ_ok .rx, by decide, seqOk_blk _ (by decide) rfl (by constructor <;> decide), rfl, by decide, by decide, by decide,
   seqOk_blk _ (by decide) rfl (by constructor <;> decide)⟩

theorem witness_SqrelReleases : State.reset.SeqOk ∧ State.reset.seq.mode = .idle ∧ (withSeq (segQ .rx .client)).SeqOk ∧
    (segQ .rx .client).mode ≠ .idle ∧ (segQ .rx .client).dir = .rx ∧ (withSeq (segQ .tx .client)).SeqOk ∧
    (segQ .tx .client).dir = .tx := ⟨seqOk_idle, rfl, segQ_ok .rx .client, by decide, rfl, segQ_ok .tx .client, rfl⟩

theorem witness_RaopenOpens : State.reset.cfg.wf ∧ State.reset.cfg.nslot ≤ (4 : SlotNo).toNat ∧
    2 ^ 24 ≤ ((withDregs 1785 0x1000000 0).dreg 1).toNat ∧ 2 ^ 19 ≤ ((withDregs 0 0 0x80000).dreg 2).toNat ∧
    (((withDregs 0 0 0x60000).dreg 2).toNat / 2 ^ 18 % 2 = 1 ∧ ((withDregs 0 0 0x60000).dreg 2).toNat / 2 ^ 16 % 2 = 0) ∧
    (busySlot.slot 0).state ≠ .free ∧ 1785 < ((withDregs 1786 0 0).dreg 0).toNat ∧
    ¬ (((withDregs 1785 0xFFFFFF 0x0000FF80).dreg 0).toNat = 0 ∨ 1785 < ((withDregs 1785 0xFFFFFF 0x0000FF80).dreg 0).toNat) ∧
    ¬ (2 ^ 24 ≤ ((withDregs 1785 0xFFFFFF 0x0000FF80).dreg 1).toNat ∨ 2 ^ 19 ≤ ((withDregs 1785 0xFFFFFF 0x0000FF80).dreg 2).toNat) ∧
    ((busySlot.slot 0).state = .opened ∧ (busySlot.slot 0).sa.toNat = 0xFF80 % 256 ∧
      (busySlot.slot 0).da.toNat = 0xFF80 / 2 ^ 8 % 256 ∧ (busySlot.slot 0).pgn.toNat = 0xFEEC) := by decide

theorem witness_RacloseCloses : State.reset.cfg.nslot ≤ (4 : SlotNo).toNat ∧ ((withSeq (segQ .tx .client)).slot 3).state = .seq ∧
    (State.reset.slot 3).state = .free ∧ (busySlot.slot 0).state = .opened ∧ (busySlot.slot 0).mode = .rxBam ∧
    ((withSession { Slot.fresh .txRts .tp 0 0 0 1 with state := .done, next := 2 }).slot 3).state = .done := by decide

theorem witness_RafindFinds : State.reset.cfg.wf ∧ (busySlot.slot 0).state = .opened ∧
    (busySlot.slot 0).sa.toNat = ((withDregs 0 0x0000FF80 0).dreg 1).toNat % 256 ∧
    (busySlot.slot 0).da.toNat = ((withDregs 0 0x0000FF80 0).dreg 1).toNat / 2 ^ 8 % 256 ∧
    ((withDregs 0 0x0000FF80 0).dreg 1).toNat / 2 ^ 16 % 2 = 0 ∧
    (∀ x : SlotNo, ¬ ((State.reset.slot x).state = .opened ∨ (State.reset.slot x).state = .done)) ∧
    ((busySlot.setSlot 3 { bamSession with pgn := 0 }).slot 3).sa = (busySlot.slot 0).sa := by decide

theorem witness_RactsGrants : State.reset.cfg.nslot ≤ (4 : SlotNo).toNat ∧ ¬ ((State.reset.slot 3).state = .opened) ∧
    ((withSession (Slot.fresh .rxRts .tp 0 0 0 1785)).slot 3).Ok Config.default ∧
    ((withSession (Slot.fresh .rxRts .tp 0 0 0 1785)).slot 3).mode = .rxRts ∧
    ((withSession (Slot.fresh .rxRts .tp 0 0 0 1785)).slot 3).state = .opened :=
  ⟨by decide, by decide, (withSession_ok (Slot.fresh .rxRts .tp 0 0 0 1785) (by decide) (by constructor <;> decide)).each 3,
   by decide, by decide⟩

theorem witness_RactstxApplies : ((withSession (Slot.fresh .txRts .etp 0 0 0 33)).slot 3).mode = .txRts ∧
    ((withSession (Slot.fresh .txRts .etp 0 0 0 33)).slot 3).state = .opened ∧ ((withDregs 0 0 0).dreg 0).toNat = 0 ∧
    255 < ((withDregs 256 1 0).dreg 0).toNat ∧ ((withDregs 1 0 0).dreg 1).toNat < 1 ∧
    ((withSession (Slot.fresh .txRts .etp 0 0 0 33)).slot 3).npkt.toNat <
      ((withDregs 5 2 0).dreg 1).toNat + ((withDregs 5 2 0).dreg 0).toNat - 1 ∧
    ¬ (255 < ((withDregs 5 1 0).dreg 0).toNat ∨ ((withDregs 5 1 0).dreg 1).toNat < 1 ∨
      ((withSession (Slot.fresh .txRts .etp 0 0 0 33)).slot 3).npkt.toNat <
        ((withDregs 5 1 0).dreg 1).toNat + ((withDregs 5 1 0).dreg 0).toNat - 1) ∧
    (State.reset.slot 3).mode ≠ .txRts := by decide

/-- A burst of 255 packets from packet 256 on, its DPO known. -/
def etpBurst : Slot :=
  { Slot.fresh .rxRts .etp 0 0 0 4000 with next := 256, wstart := 256, wcount := 255, dpo := 255, dpok := true }

theorem witness_RadpoApplies : ((withSession etpBurst).slot 3).state = .opened ∧ ((withSession etpBurst).slot 3).mode = .rxRts ∧
    ((withSession etpBurst).slot 3).proto = .etp ∧ ((255 : Nat) : Int) = (etpBurst.wstart.toNat : Int) - 1 ∧
    1 ≤ 1 ∧ 255 ≤ etpBurst.wcount.toNat ∧ ¬ (256 ≤ etpBurst.wcount.toNat) ∧ (busySlot.slot 0).mode ≠ .rxRts := by decide

theorem witness_RadtRefuses : (3 : SlotNo).toNat < State.reset.cfg.nslot ∧ etpBurst.state = .opened ∧ etpBurst.mode = .rxRts ∧
    ((withLen 7).frame .f0).len ≠ 8 ∧ ((withLen 8).frame .f0).len = 8 ∧ ((fullFrame 0).byte 0).toNat = 0 ∧
    { etpBurst with wcount := 0 }.wcount = 0 ∧ { etpBurst with dpok := false }.dpok = false ∧
    bamSession.npkt.toNat < ((fullFrame 4).byte 0).toNat ∧ etpBurst.dpo.toNat + 1 < { etpBurst with next := 257 }.next.toNat ∧
    etpBurst.next.toNat < etpBurst.dpo.toNat + ((fullFrame 255).byte 0).toNat ∧
    ¬ (etpBurst.wstart.toNat + etpBurst.wcount.toNat - 1 < etpBurst.dpo.toNat + ((fullFrame 255).byte 0).toNat) ∧
    (State.reset.slot 3).state ≠ .opened := by decide

theorem witness_RadtTakesPacket : (withSession etpBurst).SlotsOk ∧ (withSession etpBurst).MemOk ∧
    ((fullFrame 1).byte 0).toNat ≠ 0 ∧ etpBurst.dpo.toNat + ((fullFrame 1).byte 0).toNat = etpBurst.next.toNat ∧
    (1 ≤ etpBurst.wcount.toNat ∧ etpBurst.next.toNat ≤ etpBurst.wstart.toNat + etpBurst.wcount.toNat - 1) ∧
    etpBurst.dpok = true ∧ (withSession { bamSession with next := 3 }).SlotsOk ∧
    ((fullFrame 3).byte 0).toNat = { bamSession with next := 3 }.next.toNat :=
  ⟨withSession_ok etpBurst (by decide) (by constructor <;> decide), memOk_of_empty reset_buf, by decide, by decide, by decide,
   by decide, withSession_ok { bamSession with next := 3 } (by decide) (by constructor <;> decide), by decide⟩

theorem witness_RatxSendsPacket : (withSession (Slot.fresh .txBam .tp 0 0 0 1785)).SlotsOk ∧
    (withSession { Slot.fresh .txRts .etp 0 0 0 20 with next := 3, wstart := 3, wcount := 1, dpo := 2, dpok := true }).SlotsOk ∧
    (withSession (Slot.fresh .txRts .tp 0 0 0 20)).SlotsOk ∧ (Slot.fresh .txRts .tp 0 0 0 20).wcount = 0 ∧
    (3 : SlotNo).toNat < State.reset.cfg.nslot ∧ (State.reset.slot 3).state ≠ .opened :=
  ⟨withSession_ok (Slot.fresh .txBam .tp 0 0 0 1785) (by decide) (by constructor <;> decide),
   withSession_ok { Slot.fresh .txRts .etp 0 0 0 20 with next := 3, wstart := 3, wcount := 1, dpo := 2, dpok := true } (by decide)
     (by constructor <;> decide),
   withSession_ok (Slot.fresh .txRts .tp 0 0 0 20) (by decide) (by constructor <;> decide), by decide, by decide, by decide⟩

theorem witness_InvariantAtReset : Config.default.wf ∧ Config.wf { Config.default with nslot := 1, rabCap := 1785 } ∧
    Config.wf { Config.default with nslot := 8, rabCap := 16777215 } := by decide

/-- The reset state with LDI D[1], 0x1234 about to be written. -/
def fetching : State := State.reset.withFetchWord 32 0x04801234

/-- A block send in slot 3 with SQBTX F[1] about to be written. -/
def sending : State := (withSeq (blkQ .tx)).withFetchWord 32 0x90002000

theorem witness_FrameIdsStayLegal : fetching.FramesOk ∧ ∃ t, step fetching = .next t := ⟨⟨reset_inv.frames.std_id⟩, _, rfl⟩

theorem witness_StatusStaysLegal : fetching.StatusOk ∧ ∃ t, step fetching = .next t :=
  ⟨⟨reset_inv.status.known_rc, reset_inv.status.ready, reset_inv.status.faulted⟩, _, rfl⟩

theorem witness_MemoryStaysCanonical : fetching.MemOk ∧ ∃ t, step fetching = .next t :=
  ⟨⟨reset_memOk.canonical, reset_memOk.inside⟩, _, rfl⟩

theorem witness_SequencerStaysBound : fetching.BindOk ∧ ∃ t, step fetching = .next t :=
  ⟨⟨reset_inv.bind.bound, reset_inv.bind.only, reset_inv.bind.idle⟩, _, rfl⟩

theorem witness_SessionKeysStayDistinct : fetching.SlotsOk ∧ fetching.KeysOk ∧ ∃ t, step fetching = .next t :=
  ⟨⟨reset_slotsOk.cfg, reset_slotsOk.each, reset_slotsOk.absent⟩, ⟨reset_inv.keys.distinct⟩, _, rfl⟩

theorem witness_SessionsStayLegal : fetching.SlotsOk ∧ ∃ t, step fetching = .next t :=
  ⟨⟨reset_slotsOk.cfg, reset_slotsOk.each, reset_slotsOk.absent⟩, _, rfl⟩

theorem witness_SequencerStaysLegal : sending.cfg.wf ∧ sending.SeqOk ∧ ∃ t, step sending = .next t :=
  have h := blkQ_ok .tx
  ⟨by decide, ⟨h.slot, h.seg, h.blk, h.complete⟩, _, rfl⟩

theorem witness_StepsGoOn : State.reset.Inv := reset_inv

end Sys2Proof.Tests
end

section
/-! PROOF. Obligation O9 (spec/00_scope.md R20): every command but RAFIND answers in one of four ways, two of which leave
everything but STATUS alone; RAFIND's answers also write its destination register. -/

namespace Sys2Proof.Machine

/-! ## The codes that are successes -/

/-- R41 numbers the successes below 0x10, so whether a code is a success can be read off STATUS.RC. -/
theorem ResultCode.success_eq_code_lt (c : ResultCode) : c.success = decide (c.code.toNat < 0x10) := by
  cases c <;> rfl

theorem ResultCode.success_congr {c c' : ResultCode} (h : c.code = c'.code) : c.success = c'.success := by
  simp only [ResultCode.success_eq_code_lt, h]

/-! ## The ways a command ends -/

/-- The answers R20 allows a command at s: a change of the state beyond STATUS comes with a success code only. -/
inductive AllOrNothing (s : State) : Result → Prop
  /-- The command returns a success; what it did to the state is free. -/
  | done {op : BitVec 6} {c : ResultCode} {t : State} (hc : c.success = true) : AllOrNothing s (complete op c t)
  /-- The command returns any code at the state it began in. -/
  | unchanged {op : BitVec 6} {c : ResultCode} : AllOrNothing s (complete op c s)
  /-- Fault entry at the state the command began in. -/
  | raised {op : BitVec 6} {c : FaultCause} : AllOrNothing s (raiseFault op c s)
  /-- The model stops: there is no next state. -/
  | stopped {f : Fault} : AllOrNothing s (.fault f)

theorem AllOrNothing.ite {s : State} {p : Prop} [Decidable p] {x y : Result} (hx : AllOrNothing s x)
    (hy : AllOrNothing s y) : AllOrNothing s (if p then x else y) := by
  split
  · exact hx
  · exact hy

/-- What R20 asks of a next state that comes with a code that is no success. -/
theorem AllOrNothing.eq_but_status {s t : State} {r : Result} {c : ResultCode} (h : AllOrNothing s r)
    (hr : r = .next t) (hc : c.success = false) (hrc : t.status.rc = c.code) : t = { s with status := t.status } := by
  cases h with
  | @done op c' u hc' =>
    obtain rfl := complete_eq_next.mp hr
    have hsame : c'.success = c.success := ResultCode.success_congr hrc
    simp [hc', hc] at hsame
  | unchanged =>
    obtain rfl := complete_eq_next.mp hr
    rfl
  | raised =>
    obtain rfl := raiseFault_eq_next.mp hr
    rfl
  | stopped => cases hr

/-! ## Shared endings that only succeed -/

/-- The code of RADT and RATX once a packet went through (R275, R281). -/
theorem Slot.advance_success (r : Slot) (p : Nat) (k : Bool) : (r.advance p k).2.success = true := by
  unfold Slot.advance
  extract_lets rts r1
  split
  · rfl
  · split <;> rfl

/-- The code of SQBTX and SQBRX (R217, R221). -/
theorem segmentCode_success (ends : Bool) :
    (if ends then ResultCode.blockEnd else ResultCode.ok).success = true := by
  cases ends <;> rfl

/-- The end of a round is always a success (R210), whatever the state s the command began in. -/
theorem endRound_allOrNothing (s u : State) (op : BitVec 6) : AllOrNothing s (endRound op u) :=
  .ite (.done rfl) (.done rfl)

theorem sendHalf_allOrNothing (s u : State) : AllOrNothing s (sendHalf u) := by
  unfold sendHalf
  cases u.seq.role with
  | client => exact .done rfl
  | server => exact endRound_allOrNothing s _ _

theorem recvHalf_allOrNothing (s u : State) : AllOrNothing s (recvHalf u) := by
  unfold recvHalf
  cases u.seq.role with
  | client => exact endRound_allOrNothing s _ _
  | server => exact .done rfl

/-! ## One lemma per command: its checks in the order of its rule -/

section Commands

variable (s : State) (e : ByteOrder) (sl : SlotNo) (a b c : DReg) (f : FrameReg)

/-! ### The frame unit and the CRC unit (spec/41_frame_unpacker.md, spec/45_crc.md) -/

theorem execFinit_allOrNothing (fmt : IdFormat) (len : BitVec 4) (fill : Byte) :
    AllOrNothing s (execFinit f a fmt len fill s) :=
  .ite .raised <| .ite .raised <| .done rfl

theorem execFgetb_allOrNothing (off : BitVec 3) (w : Nat) : AllOrNothing s (execFgetb e a f off w s) :=
  .ite .raised <| .done rfl

theorem execFputb_allOrNothing (off : BitVec 3) (w : Nat) : AllOrNothing s (execFputb e f off w a s) :=
  .ite .raised <| .done rfl

theorem execFgetx_allOrNothing (sp : Space) (pos : BitVec 6) (n : Nat) : AllOrNothing s (execFgetx a f sp pos n s) :=
  .ite (.done rfl) .raised

theorem execFputx_allOrNothing (sp : Space) (pos : BitVec 6) (n : Nat) : AllOrNothing s (execFputx f sp pos n a s) :=
  .ite (.done rfl) .raised

theorem execCrcf_allOrNothing (off : BitVec 3) (n : BitVec 4) : AllOrNothing s (execCrcf f off n s) :=
  .ite .raised <| .ite .raised <| .done rfl

theorem execCrcb_allOrNothing : AllOrNothing s (execCrcb sl a b s) := by
  refine .ite .raised <| .ite .raised <| .ite .raised ?_
  split
  · exact .stopped
  · exact .done rfl

theorem execCrcchk_allOrNothing : AllOrNothing s (execCrcchk a s) :=
  .ite .unchanged .unchanged

/-! ### Buffer access (spec/44_buffer.md) -/

theorem execBrd_allOrNothing (w : Nat) : AllOrNothing s (execBrd e a sl b w s) := by
  refine .ite .raised <| .ite .raised <| .ite .raised ?_
  split
  · exact .stopped
  · exact .done rfl

theorem execBwr_allOrNothing (w : Nat) : AllOrNothing s (execBwr e sl b w a s) := by
  refine .ite .raised <| .ite .raised <| .ite .raised ?_
  split
  · exact .stopped
  · exact .done rfl

theorem execFtob_allOrNothing (fo : BitVec 3) (n : BitVec 4) : AllOrNothing s (execFtob sl b f fo n s) := by
  refine .ite .raised <| .ite .raised <| .ite .raised <| .ite .raised <| .ite .raised ?_
  split
  · exact .stopped
  · exact .done rfl

theorem execBtof_allOrNothing (fo : BitVec 3) (n : BitVec 4) : AllOrNothing s (execBtof f fo n sl b s) := by
  refine .ite .raised <| .ite .raised <| .ite .raised <| .ite .raised <| .ite .raised ?_
  split
  · exact .stopped
  · exact .done rfl

/-! ### The sequencer (spec/42_sequencer.md) -/

theorem execSqseg_allOrNothing (dir : Dir) (role : Role) (u : Bool) : AllOrNothing s (execSqseg sl a dir role u s) :=
  .ite .raised <| .ite .raised <| .ite .raised <| .ite .raised <| .ite .unchanged <| .done rfl

theorem execSqblk_allOrNothing (dir : Dir) : AllOrNothing s (execSqblk sl a b dir s) :=
  .ite .raised <| .ite .raised <| .ite .raised <| .ite .raised <| .ite .unchanged <| .done rfl

theorem execSqsend_allOrNothing (cs : BitVec 3) : AllOrNothing s (execSqsend f cs s) := by
  refine .ite .raised ?_
  cases s.seq.dir with
  | tx =>
    dsimp only
    split
    · exact .stopped
    · exact sendHalf_allOrNothing s _
  | rx => exact sendHalf_allOrNothing s _

theorem execSqrecv_allOrNothing (cs : BitVec 3) : AllOrNothing s (execSqrecv f cs s) := by
  refine .ite .raised <| .ite .unchanged <| .ite .unchanged <| .ite .unchanged ?_
  cases s.seq.dir with
  | tx => exact recvHalf_allOrNothing s s
  | rx =>
    refine .ite .unchanged <| .ite .unchanged ?_
    split
    · exact .stopped
    · exact recvHalf_allOrNothing s _

theorem execSqbtx_allOrNothing : AllOrNothing s (execSqbtx f s) := by
  refine .ite .raised ?_
  dsimp only
  split
  · exact .stopped
  · exact .done (segmentCode_success _)

theorem execSqbrx_allOrNothing : AllOrNothing s (execSqbrx f s) := by
  refine .ite .raised <| .ite .unchanged <| .ite .unchanged <| .ite .unchanged <| .ite .unchanged ?_
  dsimp only
  split
  · exact .stopped
  · exact .done (segmentCode_success _)

theorem execSqback_allOrNothing : AllOrNothing s (execSqback a b s) :=
  .ite .raised <| .ite .raised <| .ite .raised <| .ite .unchanged <| .ite (.done rfl) (.done rfl)

theorem execSqrel_allOrNothing : AllOrNothing s (execSqrel s) := by
  refine .ite .unchanged <| .ite ?_ (.done rfl)
  split
  · exact .stopped
  · exact .done rfl

/-! ### The reassembly buffer (spec/43_reassembly.md) -/

theorem execRaopen_allOrNothing : AllOrNothing s (execRaopen sl a b c s) :=
  .ite .raised <| .ite .raised <| .ite .raised <| .ite .raised <| .ite .unchanged <| .ite .unchanged <| .done rfl

theorem execRaclose_allOrNothing : AllOrNothing s (execRaclose sl s) := by
  refine .ite .raised <| .ite .unchanged <| .ite .raised <| .ite ?_ (.done rfl)
  split
  · exact .stopped
  · exact .done rfl

theorem execRacts_allOrNothing : AllOrNothing s (execRacts sl a b s) :=
  .ite .raised <| .ite .raised <| .done rfl

theorem execRactstx_allOrNothing : AllOrNothing s (execRactstx sl a b s) :=
  .ite .raised <| .ite .raised <| .ite (.done rfl) <| .ite .unchanged <| .done rfl

theorem execRadpo_allOrNothing : AllOrNothing s (execRadpo sl a b s) :=
  .ite .raised <| .ite .raised <| .ite .unchanged <| .done rfl

theorem execRadt_allOrNothing : AllOrNothing s (execRadt sl f s) := by
  refine .ite .raised <| .ite .raised <| .ite .unchanged <| .ite .unchanged <| .ite .unchanged <| .ite .unchanged <|
    .ite .unchanged <| .ite .unchanged ?_
  dsimp only
  split
  · exact .stopped
  · exact .done (Slot.advance_success _ _ _)

theorem execRatx_allOrNothing : AllOrNothing s (execRatx sl f s) := by
  refine .ite .raised <| .ite .raised <| .ite .raised ?_
  dsimp only
  split
  · exact .stopped
  · exact .done (Slot.advance_success _ _ _)

/-- RAFIND writes D[a] and STATUS, whatever code it returns (R263). -/
theorem execRafind_keepsOutside {t : State} (h : execRafind a b c s = .next t) :
    s.KeepsOutside t { dregs := [a] } := by
  have written (v : Word) (code : ResultCode) (ht : complete Opcode.rafind code (s.setDreg a v) = .next t) :
      s.KeepsOutside t { dregs := [a] } := by
    obtain rfl := complete_eq_next.mp ht
    exact (s.keeps_setDreg a v _ (List.mem_singleton_self a)).trans (State.keeps_completed _ _ _ _)
  unfold execRafind at h
  split at h
  · exact written _ _ h
  · exact written _ _ h
  · exact written _ _ h

end Commands

/-! ## Every command -/

/-- Every command but RAFIND, whose NOT_FOUND and AMBIGUOUS come with a write of its destination register. -/
theorem exec_allOrNothing (i : Instr) (s : State) (hi : ∀ a b c, i = .rafind a b c → False) :
    AllOrNothing s (exec i s) := by
  cases i with
  | nop => exact .done rfl
  | ldi a imm => exact .done rfl
  | ldih a imm => exact .done rfl
  | finit f a fmt len fill => exact execFinit_allOrNothing ..
  | fcopy f g => exact .done rfl
  | fgetb e a f off w => exact execFgetb_allOrNothing ..
  | fputb e f off w a => exact execFputb_allOrNothing ..
  | fgetx a f sp pos n => exact execFgetx_allOrNothing ..
  | fputx f sp pos n a => exact execFputx_allOrNothing ..
  | fclass a f => exact .done rfl
  | crcclr => exact .done rfl
  | crcf f off n => exact execCrcf_allOrNothing ..
  | crcb sl a b => exact execCrcb_allOrNothing ..
  | crcrd a => exact .done rfl
  | crcchk a => exact execCrcchk_allOrNothing ..
  | brd e a sl b w => exact execBrd_allOrNothing ..
  | bwr e sl b w a => exact execBwr_allOrNothing ..
  | ftob sl b f fo n => exact execFtob_allOrNothing ..
  | btof f fo n sl b => exact execBtof_allOrNothing ..
  | sqseg sl a dir role u => exact execSqseg_allOrNothing ..
  | sqblk sl a b dir => exact execSqblk_allOrNothing ..
  | sqsend f cs => exact execSqsend_allOrNothing ..
  | sqrecv f cs => exact execSqrecv_allOrNothing ..
  | sqbtx f => exact execSqbtx_allOrNothing ..
  | sqbrx f => exact execSqbrx_allOrNothing ..
  | sqback a b => exact execSqback_allOrNothing ..
  | sqrel => exact execSqrel_allOrNothing ..
  | raopen sl a b c => exact execRaopen_allOrNothing ..
  | raclose sl => exact execRaclose_allOrNothing ..
  | rafind a b c => exact (hi a b c rfl).elim
  | racts sl a b => exact execRacts_allOrNothing ..
  | ractstx sl a b => exact execRactstx_allOrNothing ..
  | radpo sl a b => exact execRadpo_allOrNothing ..
  | radt sl f => exact execRadt_allOrNothing ..
  | ratx sl f => exact execRatx_allOrNothing ..

/-- Settles O9: a command other than RAFIND is all or nothing; RAFIND keeps everything but D[a] and STATUS. -/
theorem refusalsChangeOnlyStatus : Obligations.RefusalsChangeOnlyStatus := by
  unfold Obligations.RefusalsChangeOnlyStatus
  intro i s t c h hc hrc
  split
  next a b c' => exact execRafind_keepsOutside s a b c' h
  next hi => exact (exec_allOrNothing i s hi).eq_but_status h hc hrc

end Sys2Proof.Machine
end

section
/-! PROOF. What a command can do, said once: it ends with a result code after a sequence of updates of the state, each inside
the command's footprint and of one of eleven kinds, or with fault entry, or, outside the invariant only, with the model's stop.
Every invariant is then a matter of the eleven kinds of update (spec/10_state.md R33 to R55, spec/20_memory.md R102). -/

namespace Sys2Proof.Machine

/-! ## Legal values of one frame register, of SEQ and of a slot's key -/

/-- R35 for one frame register. -/
def Frame.IdLegal (fr : Frame) : Prop := fr.ext = .std → fr.id.toNat < 0x800

theorem State.framesOk_iff (s : State) : s.FramesOk ↔ ∀ f, (s.frame f).IdLegal := ⟨fun h => h.std_id, fun h => ⟨h⟩⟩

/-- What State.SeqOk asks of SEQ's fields, the slot apart. -/
structure Sequencer.Legal (c : Config) (q : Sequencer) : Prop where
  seg : q.mode = .seg → q.SegOk c
  blk : q.mode = .blk → q.BlkOk c
  complete : q.mode = .complete → q.CompleteOk c

theorem State.seqOk_iff (s : State) : s.SeqOk ↔ s.seq.slot.toNat < s.cfg.nslot ∧ s.seq.Legal s.cfg :=
  ⟨fun h => ⟨h.slot, h.seg, h.blk, h.complete⟩, fun ⟨hslot, hseg, hblk, hcomplete⟩ => ⟨hslot, hseg, hblk, hcomplete⟩⟩

theorem Sequencer.Legal.of_seg {c : Config} {q : Sequencer} (hm : q.mode = .seg) (h : q.SegOk c) : q.Legal c :=
  ⟨fun _ => h, by simp [hm], by simp [hm]⟩

theorem Sequencer.Legal.of_blk {c : Config} {q : Sequencer} (hm : q.mode = .blk) (h : q.BlkOk c) : q.Legal c :=
  ⟨by simp [hm], fun _ => h, by simp [hm]⟩

theorem Sequencer.Legal.of_complete {c : Config} {q : Sequencer} (hm : q.mode = .complete) (h : q.CompleteOk c) :
    q.Legal c :=
  ⟨by simp [hm], by simp [hm], fun _ => h⟩

theorem Sequencer.legal_idle (c : Config) : Sequencer.idle.Legal c := ⟨nofun, nofun, nofun⟩

/-- A session's key (43_reassembly.md R250). -/
def Slot.key (r : Slot) : Byte × Byte × BitVec 24 := (r.sa, r.da, r.pgn)

theorem Slot.key_eq_iff (r r' : Slot) : r.key = r'.key ↔ r.sa = r'.sa ∧ r.da = r'.da ∧ r.pgn = r'.pgn := by
  simp [Slot.key]

theorem State.keysOk_iff (s : State) :
    s.KeysOk ↔ ∀ x y, x ≠ y → (s.slot x).keyed = true → (s.slot y).keyed = true → (s.slot x).key ≠ (s.slot y).key := by
  simp only [Ne, Slot.key_eq_iff]
  exact ⟨fun h => h.distinct, fun h => ⟨h⟩⟩

theorem Slot.ok_free (c : Config) : Slot.free.Ok c := ⟨fun _ => rfl, nofun, nofun⟩

theorem Slot.ok_bound (c : Config) : Slot.Ok c { Slot.free with state := .seq } := ⟨nofun, fun _ => rfl, nofun⟩

theorem Slot.SessionOk.ok {c : Config} {r : Slot} (h : r.SessionOk c) (hk : r.keyed = true) : r.Ok c where
  free hf := by simp [Slot.keyed, hf] at hk
  seq hs := by simp [Slot.keyed, hs] at hk
  session _ := h

/-- Another existing slot with the key means KEY_BUSY (R254). -/
theorem State.key_ne_of_not_keyBusy {s : State} {sl x : SlotNo} {r : Slot}
    (h : s.keyBusy sl r.sa r.da r.pgn = false) (hx : x ≠ sl) (hn : x.toNat < s.cfg.nslot)
    (hk : (s.slot x).keyed = true) : (s.slot x).key ≠ r.key := by
  intro e
  obtain ⟨hsa, hda, hpgn⟩ := (Slot.key_eq_iff _ _).mp e
  have hne : x.toNat ≠ sl.toNat := fun e => hx (BitVec.eq_of_toNat_eq e)
  have hbusy : s.keyBusy sl r.sa r.da r.pgn = true := by
    unfold State.keyBusy
    refine List.any_eq_true.mpr ⟨x.toNat, (s.mem_slotNos _).mpr hn, ?_⟩
    simp [Slot.addressed, hne, hk, hsa, hda, hpgn]
  simp [hbusy] at h

/-! ## The kinds of update -/

/-- One update of s inside the footprint p, with what makes it keep the invariants. -/
inductive Update (p : Footprint) (s : State) : State → Prop
  | dreg {a : DReg} {v : Word} (hp : a ∈ p.dregs) : Update p s (s.setDreg a v)
  | frame {f : FrameReg} {fr : Frame} (hp : f ∈ p.frames) (hid : s.FramesOk → fr.IdLegal) : Update p s (s.setFrame f fr)
  | crc {c : BitVec 16} (hp : p.crc = true) : Update p s (s.setCrc c)
  /-- MemWrite, where R17 defines it. -/
  | store {sl : SlotNo} {off : Nat} {bs : List Byte} (hp : { sl := sl, off := off, n := bs.length } ∈ p.bytes)
      (hin : s.inBuf sl off bs.length) : Update p s (s.setBuf sl ((s.buf sl).writeN off bs))
  /-- The scrub of R235 and R261. -/
  | scrub {sl : SlotNo} (hp : { sl := sl, off := 0, n := s.cfg.rabCap } ∈ p.bytes) :
      Update p s (s.setBuf sl ((s.buf sl).clear s.cfg.rabCap))
  /-- A transfer starts: an idle SEQ takes a free slot (R202, R204). -/
  | bind {q : Sequencer} (hp : p.seq = true) (hs : q.slot ∈ p.slots) (hl : q.slot.toNat < s.cfg.nslot)
      (hi : s.seq.mode = .idle) (hf : (s.slot q.slot).state = .free) (hm : q.mode ≠ .idle) (hq : q.Legal s.cfg) :
      Update p s ((s.setSeq q).bindSlot q.slot)
  /-- A transfer goes on in its slot. -/
  | transfer {q : Sequencer} (hp : p.seq = true) (hi : s.seq.mode ≠ .idle) (hm : q.mode ≠ .idle)
      (hs : q.slot = s.seq.slot) (hq : s.cfg.wf → s.seq.Legal s.cfg → q.Legal s.cfg) : Update p s (s.setSeq q)
  /-- A transfer ends: SEQ and its slot get every field 0 (R234). -/
  | release (hp : p.seq = true) (hs : s.seq.slot ∈ p.slots) : Update p s s.release
  /-- A session starts in a free slot, with a key that no other session has (R254, R257). -/
  | opens {sl : SlotNo} {r : Slot} (hs : sl ∈ p.slots) (hl : sl.toNat < s.cfg.nslot) (hf : (s.slot sl).state = .free)
      (hr : r.keyed = true) (hkey : s.keyBusy sl r.sa r.da r.pgn = false) (hok : s.cfg.wf → r.SessionOk s.cfg) :
      Update p s (s.setSlot sl r)
  /-- A session ends: its record gets every field 0 (R260). -/
  | closes {sl : SlotNo} (hs : sl ∈ p.slots) (hk : (s.slot sl).keyed = true) : Update p s (s.setSlot sl Slot.free)
  /-- A session goes on under its key. -/
  | session {sl : SlotNo} {r : Slot} (hs : sl ∈ p.slots) (hl : sl.toNat < s.cfg.nslot) (hk : (s.slot sl).keyed = true)
      (hr : r.keyed = true) (hkey : r.key = (s.slot sl).key)
      (hok : s.cfg.wf → (s.slot sl).SessionOk s.cfg → r.SessionOk s.cfg) : Update p s (s.setSlot sl r)

/-! ## What each kind of update keeps -/

section
variable {p : Footprint} {s t : State}

theorem Update.keepsOutside (h : Update p s t) : s.KeepsOutside t p := by
  cases h with
  | dreg hp => exact State.keeps_setDreg _ _ _ _ hp
  | frame hp _ => exact State.keeps_setFrame _ _ _ _ hp
  | crc hp => exact State.keeps_setCrc _ _ _ hp
  | store hp _ => exact State.keeps_stored _ _ _ _ _ hp
  | scrub hp => exact State.keeps_scrubbed _ _ _ _ hp
  | bind hp hs => exact (State.keeps_setSeq _ _ _ hp).trans (State.keeps_setSlot _ _ _ _ hs)
  | transfer hp => exact State.keeps_setSeq _ _ _ hp
  | release hp hs => exact (State.keeps_setSlot _ _ _ _ hs).trans (State.keeps_setSeq _ _ _ hp)
  | opens hs | closes hs | session hs => exact State.keeps_setSlot _ _ _ _ hs

theorem Update.status_eq (h : Update p s t) : t.status = s.status := by
  cases h with
  | frame => exact State.setFrame_status ..
  | _ => rfl

theorem Update.framesOk (h : Update p s t) (hs : s.FramesOk) : t.FramesOk := by
  cases h with
  | @frame f fr _ hid =>
    refine (State.framesOk_iff _).mpr fun f' => ?_
    rw [State.setFrame_frame]
    split
    · exact hid hs
    · exact hs.std_id f'
  | _ => exact ⟨hs.std_id⟩

/-- A slot's new bytes keep the canonical form and the bounds when they are canonical and each byte lies inside or was there. -/
theorem State.MemOk.setBuf (h : s.MemOk) {sl : SlotNo} {m : Memory} (hw : m.wf = true)
    (hin : ∀ c ∈ m, c ∈ s.buf sl ∨ (sl.toNat < s.cfg.nslot ∧ c.1 < s.cfg.rabCap)) : (s.setBuf sl m).MemOk where
  canonical x := by
    rw [State.setBuf_buf]
    split
    · exact hw
    · exact h.canonical x
  inside x c hc := by
    rw [State.setBuf_buf] at hc
    split at hc
    next hx =>
      subst hx
      exact (hin c hc).elim (h.inside x c) id
    · exact h.inside x c hc

theorem Update.memOk (h : Update p s t) (hs : s.MemOk) : t.MemOk := by
  cases h with
  | @store sl off bs _ hin =>
    refine hs.setBuf (Memory.wf_writeN _ _ _ (hs.canonical sl)) fun c hc => ?_
    obtain ⟨-, hlt⟩ | hc := Memory.mem_writeN _ _ _ _ hc
    · exact .inr ⟨hin.1, lt_of_lt_of_le hlt hin.2⟩
    · exact .inl hc
  | @scrub sl =>
    exact hs.setBuf (Memory.wf_clear _ _ (hs.canonical sl)) fun c hc => .inl ((Memory.mem_clear _ _ _).mp hc).1
  | @frame f => cases f <;> exact ⟨hs.canonical, hs.inside⟩
  | _ => exact ⟨hs.canonical, hs.inside⟩

/-- A change of a slot that is not and does not get bound to SEQ leaves the link alone. -/
theorem State.BindOk.setSlot (h : s.BindOk) {sl : SlotNo} {r : Slot} (ho : (s.slot sl).state ≠ .seq)
    (hr : r.state ≠ .seq) : (s.setSlot sl r).BindOk where
  bound hm := by
    have hb : (s.slot s.seq.slot).state = .seq := h.bound hm
    have hne : s.seq.slot ≠ sl := by
      rintro rfl
      exact ho hb
    rwa [State.setSlot_seq, State.setSlot_slot_other _ _ _ _ hne]
  only x hx := by
    rw [State.setSlot_slot] at hx
    split at hx
    · exact absurd hx hr
    · exact h.only x hx
  idle := h.idle

theorem Slot.state_ne_seq_of_keyed {r : Slot} (h : r.keyed = true) : r.state ≠ .seq := by
  rintro e
  simp [Slot.keyed, e] at h

theorem Update.bindOk (h : Update p s t) (hs : s.BindOk) : t.BindOk := by
  cases h with
  | @bind q _ _ _ hi _ hm =>
    refine ⟨fun _ => by simp [State.bindSlot], fun x hx => ⟨hm, ?_⟩, fun e => absurd e hm⟩
    by_contra hne
    simp only [State.bindSlot, State.setSlot_seq, State.setSeq_seq] at hx hne
    rw [State.setSlot_slot_other _ _ _ _ hne] at hx
    exact (hs.only x hx).1 hi
  | transfer _ hi hm hslot =>
    refine ⟨fun _ => ?_, fun x hx => ⟨hm, (hs.only x hx).2.trans hslot.symm⟩, fun e => absurd e hm⟩
    simpa [hslot] using hs.bound hi
  | release =>
    refine ⟨fun e => absurd rfl e, fun x hx => ?_, fun _ => rfl⟩
    simp only [State.release, State.setSeq_slot, State.setSlot_slot] at hx
    split at hx
    · cases hx
    next hne => exact absurd (hs.only x hx).2 hne
  | opens _ _ hf hr => exact hs.setSlot (by simp [hf]) (Slot.state_ne_seq_of_keyed hr)
  | closes _ hk => exact hs.setSlot (Slot.state_ne_seq_of_keyed hk) nofun
  | session _ _ hk hr => exact hs.setSlot (Slot.state_ne_seq_of_keyed hk) (Slot.state_ne_seq_of_keyed hr)
  | @frame f => cases f <;> exact ⟨hs.bound, hs.only, hs.idle⟩
  | _ => exact ⟨hs.bound, hs.only, hs.idle⟩

/-- A legal record in an existing slot, or a record of 0 in any, keeps the records legal. -/
theorem State.SlotsOk.setSlot (h : s.SlotsOk) {sl : SlotNo} {r : Slot} (hr : r.Ok s.cfg)
    (hl : sl.toNat < s.cfg.nslot ∨ r = Slot.free) : (s.setSlot sl r).SlotsOk where
  cfg := h.cfg
  each x := by
    rw [State.setSlot_slot]
    split
    · exact hr
    · exact h.each x
  absent x hx := by
    rw [State.setSlot_slot]
    split
    next e =>
      subst e
      exact hl.resolve_left (Nat.not_lt.mpr hx)
    · exact h.absent x hx

theorem Update.slotsOk (h : Update p s t) (hs : s.SlotsOk) : t.SlotsOk := by
  cases h with
  | @bind q _ _ hl _ hf =>
    have hfree : (s.setSeq q).slot q.slot = Slot.free := (hs.each q.slot).free hf
    have hs' : (s.setSeq q).SlotsOk := ⟨hs.cfg, hs.each, hs.absent⟩
    refine hs'.setSlot ?_ (.inl hl)
    rw [hfree]
    exact Slot.ok_bound _
  | release =>
    have hs' : (s.setSlot s.seq.slot Slot.free).SlotsOk := hs.setSlot (Slot.ok_free _) (.inr rfl)
    exact ⟨hs'.cfg, hs'.each, hs'.absent⟩
  | opens _ hl _ hr _ hok => exact hs.setSlot ((hok hs.cfg).ok hr) (.inl hl)
  | closes => exact hs.setSlot (Slot.ok_free _) (.inr rfl)
  | @session sl r _ hl hk hr _ hok => exact hs.setSlot ((hok hs.cfg ((hs.each sl).session hk)).ok hr) (.inl hl)
  | @frame f => cases f <;> exact ⟨hs.cfg, hs.each, hs.absent⟩
  | _ => exact ⟨hs.cfg, hs.each, hs.absent⟩

/-- A slot's new record keeps the keys distinct when no other session has its key. -/
theorem State.KeysOk.setSlot (h : s.KeysOk) {sl : SlotNo} {r : Slot}
    (hr : r.keyed = true → ∀ x, x ≠ sl → (s.slot x).keyed = true → (s.slot x).key ≠ r.key) : (s.setSlot sl r).KeysOk := by
  rw [State.keysOk_iff] at h ⊢
  intro x y hxy hx hy
  by_cases ex : x = sl
  · subst ex
    rw [State.setSlot_slot_same] at hx ⊢
    rw [State.setSlot_slot_other _ _ _ _ hxy.symm] at hy ⊢
    exact (hr hx y hxy.symm hy).symm
  · rw [State.setSlot_slot_other _ _ _ _ ex] at hx ⊢
    by_cases ey : y = sl
    · subst ey
      rw [State.setSlot_slot_same] at hy ⊢
      exact hr hy x ex hx
    · rw [State.setSlot_slot_other _ _ _ _ ey] at hy ⊢
      exact h x y hxy hx hy

/-- A keyed record lies in a slot that exists. -/
theorem State.SlotsOk.lt_of_keyed (h : s.SlotsOk) {x : SlotNo} (hk : (s.slot x).keyed = true) :
    x.toNat < s.cfg.nslot := by
  by_contra hx
  rw [h.absent x (Nat.not_lt.mp hx)] at hk
  exact absurd hk (by decide)

theorem Update.keysOk (h : Update p s t) (hs : s.SlotsOk) (hk : s.KeysOk) : t.KeysOk := by
  cases h with
  | @bind q =>
    have hk' : (s.setSeq q).KeysOk := ⟨hk.distinct⟩
    exact hk'.setSlot nofun
  | release => exact ⟨(hk.setSlot (sl := s.seq.slot) (r := Slot.free) nofun).distinct⟩
  | opens _ _ _ _ hkey =>
    exact hk.setSlot fun _ x hx hkx => State.key_ne_of_not_keyBusy hkey hx (hs.lt_of_keyed hkx) hkx
  | closes => exact hk.setSlot nofun
  | @session sl r _ _ hold _ hkey =>
    refine hk.setSlot fun _ x hx hkx => ?_
    rw [hkey]
    exact (State.keysOk_iff s).mp hk x sl hx hkx hold
  | @frame f => cases f <;> exact ⟨hk.distinct⟩
  | _ => exact ⟨hk.distinct⟩

theorem Update.seqOk (h : Update p s t) (hc : s.cfg.wf) (hs : s.SeqOk) : t.SeqOk := by
  obtain ⟨hslot, hlegal⟩ := s.seqOk_iff.mp hs
  rw [State.seqOk_iff]
  cases h with
  | bind _ _ hl _ _ _ hq => exact ⟨hl, hq⟩
  | transfer _ _ _ hsl hq => exact ⟨lt_of_eq_of_lt (congrArg BitVec.toNat hsl) hslot, hq hc hlegal⟩
  | release => exact ⟨hc.1, Sequencer.legal_idle _⟩
  | @frame f => cases f <;> exact ⟨hslot, hlegal⟩
  | _ => exact ⟨hslot, hlegal⟩

end

/-! ## Sequences of updates and the ends of a command -/

/-- Updates one after the other, all inside the footprint p. -/
abbrev Updates (p : Footprint) : State → State → Prop := Relation.ReflTransGen (Update p)

/-- What every update keeps, a sequence of them keeps. -/
theorem Updates.keep {I : State → Prop} {p : Footprint} {s t : State} (h : Updates p s t)
    (hI : ∀ u v, Update p u v → I u → I v) (hs : I s) : I t := by
  induction h with
  | refl => exact hs
  | tail _ hu ih => exact hI _ _ hu ih

theorem Updates.keepsOutside {p : Footprint} {s t : State} (h : Updates p s t) : s.KeepsOutside t p :=
  h.keep (I := fun u => s.KeepsOutside u p) (fun _ _ hu hk => hk.trans hu.keepsOutside) (.refl s p)

theorem Updates.status_eq {p : Footprint} {s t : State} (h : Updates p s t) : t.status = s.status :=
  h.keep (I := fun u => u.status = s.status) (fun _ _ hu e => hu.status_eq.trans e) rfl

/-- The ways a command with footprint p can end at s. -/
inductive Ends (p : Footprint) (s : State) : Result → Prop
  /-- It returns a result code after updates of the state. -/
  | returned {op : BitVec 6} {c : ResultCode} {t : State} (hc : c ≠ .faulted) (h : Updates p s t) :
      Ends p s (complete op c t)
  /-- Fault entry at the state the command began in. -/
  | raised {op : BitVec 6} {c : FaultCause} : Ends p s (raiseFault op c s)
  /-- The model's stop, which no state of the invariant reaches (log entry 5). -/
  | stopped {f : Fault} (h : ¬ s.Inv) : Ends p s (.fault f)

section
variable {p : Footprint} {s t : State}

/-- The command refuses: it returns a code and changes nothing but STATUS. -/
theorem Ends.refused {op : BitVec 6} {c : ResultCode} (hc : c ≠ .faulted) : Ends p s (complete op c s) :=
  .returned hc .refl

theorem Ends.returned_one {op : BitVec 6} {c : ResultCode} (hc : c ≠ .faulted) (h : Update p s t) :
    Ends p s (complete op c t) :=
  .returned hc (.single h)

theorem Ends.returned_two {op : BitVec 6} {c : ResultCode} {u : State} (hc : c ≠ .faulted) (h : Update p s u)
    (h' : Update p u t) : Ends p s (complete op c t) :=
  .returned hc (.tail (.single h) h')

theorem Ends.ite {c : Prop} [Decidable c] {x y : Result} (hx : c → Ends p s x) (hy : ¬ c → Ends p s y) :
    Ends p s (if c then x else y) := by
  split
  next h => exact hx h
  next h => exact hy h

/-- A check that faults when c holds. -/
theorem Ends.unless_raised {c : Prop} [Decidable c] {op : BitVec 6} {k : FaultCause} {y : Result} (hy : ¬ c → Ends p s y) :
    Ends p s (if c then raiseFault op k s else y) :=
  .ite (fun _ => .raised) hy

/-- A check that refuses when c holds. -/
theorem Ends.unless_refused {c : Prop} [Decidable c] {op : BitVec 6} {k : ResultCode} {y : Result} (hk : k ≠ .faulted)
    (hy : ¬ c → Ends p s y) : Ends p s (if c then complete op k s else y) :=
  .ite (fun _ => .refused hk) hy

/-- A MemRead that the invariant puts inside the buffer memory does not stop the model there. -/
theorem Ends.stopped_memRead {sl : SlotNo} {off n : Nat} {f : Fault} (h : s.memRead sl off n = none)
    (hin : s.Inv → s.inBuf sl off n) : Ends p s (.fault f) :=
  .stopped fun hs => by simp [State.memRead_of_inBuf (hin hs)] at h

theorem Ends.stopped_memWrite {sl : SlotNo} {off : Nat} {bs : List Byte} {f : Fault} (h : s.memWrite sl off bs = none)
    (hin : s.Inv → s.inBuf sl off bs.length) : Ends p s (.fault f) :=
  .stopped fun hs => by simp [State.memWrite_of_inBuf (hin hs)] at h

theorem Ends.stopped_scrub {sl : SlotNo} {f : Fault} (h : s.scrub sl = none) (hl : s.Inv → sl.toNat < s.cfg.nslot) :
    Ends p s (.fault f) :=
  .stopped fun hs => by simp [State.scrub_of_lt (hl hs)] at h

/-- A command that ends in a next state changed nothing outside its footprint but STATUS. -/
theorem Ends.keepsOutside {r : Result} (h : Ends p s r) (hr : r = .next t) : s.KeepsOutside t p := by
  cases h with
  | returned _ hu =>
    obtain rfl := complete_eq_next.mp hr
    exact hu.keepsOutside.trans (State.keeps_completed _ _ _ _)
  | raised =>
    obtain rfl := raiseFault_eq_next.mp hr
    exact State.keeps_status _ _ _
  | stopped => cases hr

end

theorem ResultCode.ne_faulted_of_success {c : ResultCode} (h : c.success = true) : c ≠ .faulted := by
  rintro rfl
  cases h

end Sys2Proof.Machine
end

section
/-! PROOF. The arithmetic of the invariants, without any state: how a round or a block segment changes a legal SEQ
(spec/42_sequencer.md R200 to R228), and how each reassembly command changes a legal session record
(spec/43_reassembly.md R251 to R281). -/

namespace Sys2Proof.Machine

/-! ## Sizes and offsets -/

theorem chunkLen_le_seven (size base : Nat) : chunkLen size base ≤ 7 := Nat.min_le_left _ _

/-- The bytes of a segment or packet that starts inside the payload end inside it. -/
theorem add_chunkLen_le {size base : Nat} (h : base ≤ size) : base + chunkLen size base ≤ size := by
  unfold chunkLen
  omega

/-- A number up to RAB_CAP fits a word. -/
theorem toNat_ofNat_of_le_rabCap {c : Config} {n : Nat} (hc : c.wf) (h : n ≤ c.rabCap) :
    (BitVec.ofNat 32 n).toNat = n := by
  obtain ⟨-, -, -, hcap⟩ := hc
  rw [BitVec.toNat_ofNat]
  omega

/-- Packet p of npkt starts inside the payload (R251). -/
theorem packetBase_lt {size p : Nat} (hp : p ≤ packetCount size) (hpos : 1 ≤ p) : packetBase p < size := by
  unfold packetCount at hp
  unfold packetBase
  omega

/-! ## A round of a segmented transfer -/

/-- SegOk without what it says of the turn: what the data of a segment keeps, and what the end of a round rests on. -/
structure Sequencer.RoundOk (c : Config) (q : Sequencer) : Prop where
  no_block : q.blksize = 0 ∧ q.seqno = 0 ∧ q.bstart = 0 ∧ q.bend = false
  total_le : q.total.toNat ≤ c.rabCap
  done_le : q.done.toNat ≤ c.rabCap
  send_known : q.dir = .tx → q.unk = false
  known : q.unk = false → 1 ≤ q.total.toNat ∧ q.done.toNat ≤ q.total.toNat
  unknown : q.unk = true → q.fin = false → q.total = 0
  final : q.fin = true → q.done = q.total
  send_left : q.dir = .tx → q.fin = false → q.done.toNat < q.total.toNat

theorem Sequencer.SegOk.roundOk {c : Config} {q : Sequencer} (h : q.SegOk c) : q.RoundOk c :=
  { h with }

/-- Only the sender of a request or the taker of one waits for the answer with the final segment behind it (R210). -/
theorem Sequencer.SegOk.fin_eq_false_of_rx {c : Config} {q : Sequencer} (h : q.SegOk c) (hd : q.dir = .rx)
    (ht : q.role = .server → q.rcvd = false) : q.fin = false := by
  by_contra hf
  obtain ⟨hd', -, -⟩ | ⟨-, hrole, hrcvd⟩ := h.final_turn (by simpa using hf)
  · simp [hd] at hd'
  · simp [ht hrole] at hrcvd

theorem sendOutOfTurn_eq_false {q : Sequencer} (h : ¬ sendOutOfTurn q = true) :
    q.mode = .seg ∧ (q.role = .client → q.sent = false) ∧ (q.role = .server → q.rcvd = true) := by
  simpa [sendOutOfTurn, and_assoc] using h

theorem recvOutOfTurn_eq_false {q : Sequencer} (h : ¬ recvOutOfTurn q = true) :
    q.mode = .seg ∧ (q.role = .client → q.sent = true) ∧ (q.role = .server → q.rcvd = false) := by
  simpa [recvOutOfTurn, and_assoc] using h

/-- SEQ after the end of a round (R210). -/
def Sequencer.endRound (q : Sequencer) : Sequencer :=
  { q with sent := false, rcvd := false, tog := !q.tog, mode := if q.fin then .complete else q.mode }

/-- SEQ after the CFU's half of a round (R207). -/
def Sequencer.afterSend (q : Sequencer) : Sequencer :=
  match q.role with
  | .server => { q with sent := true }.endRound
  | .client => { q with sent := true }

/-- SEQ after the peer's half of a round (R211). -/
def Sequencer.afterRecv (q : Sequencer) : Sequencer :=
  match q.role with
  | .client => { q with rcvd := true }.endRound
  | .server => { q with rcvd := true }

section
variable {q : Sequencer}

theorem Sequencer.afterSend_of_server (h : q.role = .server) : q.afterSend = { q with sent := true }.endRound := by
  simp only [Sequencer.afterSend, h]

theorem Sequencer.afterSend_of_client (h : q.role = .client) : q.afterSend = { q with sent := true } := by
  simp only [Sequencer.afterSend, h]

theorem Sequencer.afterRecv_of_client (h : q.role = .client) : q.afterRecv = { q with rcvd := true }.endRound := by
  simp only [Sequencer.afterRecv, h]

theorem Sequencer.afterRecv_of_server (h : q.role = .server) : q.afterRecv = { q with rcvd := true } := by
  simp only [Sequencer.afterRecv, h]

theorem Sequencer.endRound_mode_ne_idle (hm : q.mode ≠ .idle) : q.endRound.mode ≠ .idle := by
  show (if q.fin then SeqMode.complete else q.mode) ≠ .idle
  split
  · exact nofun
  · exact hm

theorem Sequencer.afterSend_mode_ne_idle (hm : q.mode ≠ .idle) : q.afterSend.mode ≠ .idle := by
  cases hr : q.role with
  | client => exact Sequencer.afterSend_of_client hr ▸ hm
  | server => exact Sequencer.afterSend_of_server hr ▸ Sequencer.endRound_mode_ne_idle hm

theorem Sequencer.afterRecv_mode_ne_idle (hm : q.mode ≠ .idle) : q.afterRecv.mode ≠ .idle := by
  cases hr : q.role with
  | client => exact Sequencer.afterRecv_of_client hr ▸ Sequencer.endRound_mode_ne_idle hm
  | server => exact Sequencer.afterRecv_of_server hr ▸ hm

theorem Sequencer.afterSend_slot (q : Sequencer) : q.afterSend.slot = q.slot := by
  unfold Sequencer.afterSend
  cases q.role <;> rfl

theorem Sequencer.afterRecv_slot (q : Sequencer) : q.afterRecv.slot = q.slot := by
  unfold Sequencer.afterRecv
  cases q.role <;> rfl

end

@[simp] theorem State.setSeq_setSeq (s : State) (q q' : Sequencer) : (s.setSeq q).setSeq q' = s.setSeq q' := rfl

theorem endRound_eq (op : BitVec 6) (s : State) :
    ∃ c ≠ ResultCode.faulted, endRound op s = complete op c (s.setSeq s.seq.endRound) := by
  cases hf : s.seq.fin with
  | true => exact ⟨.complete, nofun, by simp [endRound, Sequencer.endRound, hf]⟩
  | false => exact ⟨.ok, nofun, by simp [endRound, Sequencer.endRound, hf]⟩

theorem sendHalf_eq (s : State) :
    ∃ c ≠ ResultCode.faulted, sendHalf s = complete Opcode.sqsend c (s.setSeq s.seq.afterSend) := by
  cases hr : s.seq.role with
  | client => exact ⟨.ok, nofun, by simp [sendHalf, hr, Sequencer.afterSend_of_client hr]⟩
  | server =>
    obtain ⟨c, hc, he⟩ := endRound_eq Opcode.sqsend (s.setSeq { s.seq with sent := true })
    refine ⟨c, hc, ?_⟩
    simp only [sendHalf, hr, Sequencer.afterSend_of_server hr]
    simpa [hr] using he

theorem recvHalf_eq (s : State) :
    ∃ c ≠ ResultCode.faulted, recvHalf s = complete Opcode.sqrecv c (s.setSeq s.seq.afterRecv) := by
  cases hr : s.seq.role with
  | server => exact ⟨.ok, nofun, by simp [recvHalf, hr, Sequencer.afterRecv_of_server hr]⟩
  | client =>
    obtain ⟨c, hc, he⟩ := endRound_eq Opcode.sqrecv (s.setSeq { s.seq with rcvd := true })
    refine ⟨c, hc, ?_⟩
    simp only [recvHalf, hr, Sequencer.afterRecv_of_client hr]
    simpa [hr] using he

section
variable {c : Config} {q : Sequencer}

/-- The halves of the round are no matter of RoundOk. -/
theorem Sequencer.RoundOk.halves (h : q.RoundOk c) (sent rcvd : Bool) :
    { q with sent := sent, rcvd := rcvd }.RoundOk c :=
  { h with }

theorem Sequencer.RoundOk.endRound_legal (h : q.RoundOk c) (hm : q.mode = .seg) : q.endRound.Legal c := by
  cases hf : q.fin with
  | true =>
    have hmode : q.endRound.mode = .complete := by simp [Sequencer.endRound, hf]
    exact .of_complete hmode ⟨h.total_le, h.final hf, rfl, rfl⟩
  | false =>
    have hmode : q.endRound.mode = .seg := by simp [Sequencer.endRound, hf, hm]
    have hnf : q.endRound.fin ≠ true := by simp [Sequencer.endRound, hf]
    exact .of_seg hmode
      { h with client_turn := fun _ => rfl, server_turn := fun _ => rfl, final_turn := fun e => absurd e hnf }

/-- The CFU's half keeps SEQ legal; with the final segment behind it a CLIENT must be the one that sent it. -/
theorem Sequencer.RoundOk.afterSend_legal (h : q.RoundOk c) (hm : q.mode = .seg)
    (ht : q.role = .client → q.rcvd = false ∧ (q.fin = true → q.dir = .tx)) : q.afterSend.Legal c := by
  cases hr : q.role with
  | server => exact Sequencer.afterSend_of_server hr ▸ (h.halves true q.rcvd).endRound_legal hm
  | client =>
    rw [Sequencer.afterSend_of_client hr]
    obtain ⟨hrcvd, hfin⟩ := ht hr
    exact .of_seg hm {
      h with
      client_turn := fun _ => hrcvd
      server_turn := fun e => by simp [hr] at e
      final_turn := fun hf => .inl ⟨hfin hf, hr, rfl⟩ }

/-- The peer's half keeps SEQ legal; with the final segment behind it a SERVER must be the one that took it. -/
theorem Sequencer.RoundOk.afterRecv_legal (h : q.RoundOk c) (hm : q.mode = .seg)
    (ht : q.role = .server → q.sent = false ∧ (q.fin = true → q.dir = .rx)) : q.afterRecv.Legal c := by
  cases hr : q.role with
  | client => exact Sequencer.afterRecv_of_client hr ▸ (h.halves q.sent true).endRound_legal hm
  | server =>
    rw [Sequencer.afterRecv_of_server hr]
    obtain ⟨hsent, hfin⟩ := ht hr
    exact .of_seg hm {
      h with
      client_turn := fun e => by simp [hr] at e
      server_turn := fun _ => hsent
      final_turn := fun hf => .inr ⟨hfin hf, hr, rfl⟩ }

/-- SEQ with the data of the next segment sent (R207). -/
def Sequencer.sentSegment (q : Sequencer) : Sequencer :=
  let nd := chunkLen q.total.toNat q.done.toNat
  { q with
    done := BitVec.ofNat 32 (q.done.toNat + nd), fin := q.done.toNat + nd == q.total.toNat
    lastn := BitVec.ofNat 3 (7 - nd) }

theorem Sequencer.RoundOk.sentSegment (h : q.RoundOk c) (hc : c.wf) (hd : q.dir = .tx) : q.sentSegment.RoundOk c := by
  obtain ⟨hpos, hle⟩ := h.known (h.send_known hd)
  have htotal := h.total_le
  have hend := add_chunkLen_le hle
  have hdone : q.sentSegment.done.toNat = q.done.toNat + chunkLen q.total.toNat q.done.toNat :=
    toNat_ofNat_of_le_rabCap hc (hend.trans htotal)
  have hfin : q.sentSegment.fin = true ↔ q.done.toNat + chunkLen q.total.toNat q.done.toNat = q.total.toNat := by
    simp [Sequencer.sentSegment]
  exact {
    h with
    done_le := hdone ▸ hend.trans htotal
    known := fun _ => ⟨hpos, hdone ▸ hend⟩
    unknown := fun (hu : q.unk = true) => by simp [h.send_known hd] at hu
    final := fun hf => BitVec.eq_of_toNat_eq (hdone.trans (hfin.mp hf))
    send_left := fun _ hf => hdone ▸ lt_of_le_of_ne hend (mt hfin.mpr (by simp [hf])) }

/-- The most bytes a receive may hold (R211). -/
def Sequencer.limit (c : Config) (q : Sequencer) : Nat := if q.unk then c.rabCap else q.total.toNat

/-- SEQ with the nd data bytes of a segment taken in, fin telling the final one (R211). -/
def Sequencer.tookSegment (q : Sequencer) (nd : Nat) (fin : Bool) (lastn : BitVec 3) : Sequencer :=
  let done' := BitVec.ofNat 32 (q.done.toNat + nd)
  { q with done := done', fin := fin, lastn := lastn, total := if fin && q.unk then done' else q.total }

theorem Sequencer.RoundOk.limit_le (h : q.RoundOk c) : q.limit c ≤ c.rabCap := by
  unfold Sequencer.limit
  split
  · exact Nat.le_refl _
  · exact h.total_le

theorem Sequencer.RoundOk.tookSegment (h : q.RoundOk c) (hc : c.wf) (hd : q.dir = .rx) (hf : q.fin = false) {nd : Nat}
    {fin : Bool} {lastn : BitVec 3} (hlim : q.done.toNat + nd ≤ q.limit c)
    (hlen : fin = true → q.unk = false → q.done.toNat + nd = q.total.toNat) : (q.tookSegment nd fin lastn).RoundOk c := by
  have hcap : q.done.toNat + nd ≤ c.rabCap := hlim.trans h.limit_le
  have hdone : (q.tookSegment nd fin lastn).done.toNat = q.done.toNat + nd := toNat_ofNat_of_le_rabCap hc hcap
  have hrx : (q.tookSegment nd fin lastn).dir ≠ .tx := by simp [Sequencer.tookSegment, hd]
  have htotal : (q.tookSegment nd fin lastn).total =
      if fin && q.unk then (q.tookSegment nd fin lastn).done else q.total := rfl
  exact {
    h with
    total_le := by
      rw [htotal]
      split
      · exact hdone ▸ hcap
      · exact h.total_le
    done_le := hdone ▸ hcap
    send_known := fun e => absurd e hrx
    known := fun (hu : q.unk = false) => by
      have hle : q.done.toNat + nd ≤ q.total.toNat := by simpa [Sequencer.limit, hu] using hlim
      rw [htotal, hdone]
      simpa [hu] using ⟨(h.known hu).1, hle⟩
    unknown := fun (hu : q.unk = true) (hnf : fin = false) => by
      rw [htotal, hnf]
      simpa using h.unknown hu hf
    final := fun (hfin : fin = true) => by
      rw [htotal]
      cases hu : q.unk with
      | true => simp [hfin]
      | false => simpa using BitVec.eq_of_toNat_eq (hdone.trans (hlen hfin hu))
    send_left := fun e => absurd e hrx }

/-! ## A segment of a block transfer -/

/-- SEQ after block segment number seqno + 1 with the next data bytes, ends telling the block's last (R217, R221). -/
def Sequencer.nextSegment (q : Sequencer) (seqno : BitVec 7) (ends : Bool) : Sequencer :=
  let nd := chunkLen q.total.toNat q.done.toNat
  { q with
    seqno := seqno, done := BitVec.ofNat 32 (q.done.toNat + nd), lastn := BitVec.ofNat 3 (7 - nd), bend := ends }

theorem Sequencer.BlkOk.done_le (h : q.BlkOk c) : q.done.toNat ≤ q.total.toNat := h.done ▸ Nat.min_le_left _ _

theorem Sequencer.BlkOk.nextSegment (h : q.BlkOk c) (hc : c.wf) (hb : q.bend = false) {seqno : BitVec 7} {ends : Bool}
    (hseq : seqno.toNat = q.seqno.toNat + 1)
    (hends : ends = false →
      seqno.toNat ≠ q.blksize.toNat ∧ q.done.toNat + chunkLen q.total.toNat q.done.toNat ≠ q.total.toNat) :
    (q.nextSegment seqno ends).BlkOk c := by
  obtain ⟨hnext, hleft⟩ := h.running hb
  have hend := add_chunkLen_le h.done_le
  have hat := h.done
  have hdone : (q.nextSegment seqno ends).done.toNat = q.done.toNat + chunkLen q.total.toNat q.done.toNat :=
    toNat_ofNat_of_le_rabCap hc (hend.trans h.total_le)
  exact {
    h with
    seqno_le := by show seqno.toNat ≤ q.blksize.toNat; omega
    done := by
      rw [hdone]
      show _ = min q.total.toNat (q.bstart.toNat + 7 * seqno.toNat)
      unfold chunkLen
      omega
    last_short := fun _ => by show q.bstart.toNat + 7 * (seqno.toNat - 1) < q.total.toNat; omega
    running := fun e => by
      obtain ⟨hsize, htotal⟩ := hends e
      rw [hdone]
      show seqno.toNat < q.blksize.toNat ∧ _ < q.total.toNat
      omega }

/-- The acknowledged position lies inside the payload and fits (R226, R227). -/
theorem Sequencer.BlkOk.ackedDone_le (h : q.BlkOk c) (ack : Nat) : (ackedDone q ack).toNat ≤ q.total.toNat := by
  unfold ackedDone
  split
  next hack =>
    have hlt := h.last_short (by omega)
    rw [BitVec.toNat_ofNat]
    exact (Nat.mod_le _ _).trans (by omega)
  · exact h.done_le

/-- SEQ at the first segment of the next block, of size nb, from the position done on (R226). -/
def Sequencer.nextBlock (q : Sequencer) (done : Word) (nb : Word) : Sequencer :=
  { q with done := done, bstart := done, seqno := 0, bend := false, blksize := nb.setWidth 7 }

theorem blksize_of_legal {nb : Word} (h : ¬ blksizeIllegal nb = true) : 1 ≤ (nb.setWidth 7).toNat := by
  simp only [blksizeIllegal, Bool.or_eq_true, decide_eq_true_eq] at h
  rw [BitVec.toNat_setWidth]
  omega

theorem Sequencer.BlkOk.nextBlock (h : q.BlkOk c) {done nb : Word} (hlt : done.toNat < q.total.toNat)
    (hnb : ¬ blksizeIllegal nb = true) : (q.nextBlock done nb).BlkOk c :=
  { h with
    blksize_pos := blksize_of_legal hnb
    seqno_le := Nat.zero_le _
    start_lt := hlt
    done := (Nat.min_eq_right hlt.le).symm
    last_short := nofun
    running := fun _ => ⟨blksize_of_legal hnb, hlt⟩ }

/-! ## The start of a transfer -/

theorem size_of_legal {size : Word} (h : ¬ sizeIllegal c size = true) : 1 ≤ size.toNat ∧ size.toNat ≤ c.rabCap := by
  simp only [sizeIllegal, Bool.or_eq_true, beq_iff_eq, decide_eq_true_eq] at h
  omega

/-- SEQ as SQSEG starts it (R202). -/
theorem Sequencer.segOk_start {dir : Dir} {role : Role} {u : Bool} {sl : SlotNo} {size : Word}
    (hparam : ¬ (dir = .tx ∧ u = true)) (hsize : ¬ (u = false ∧ sizeIllegal c size = true)) :
    Sequencer.SegOk c { Sequencer.idle with
      mode := .seg, dir := dir, role := role, unk := u, slot := sl, total := if u then 0 else size } := by
  have hsize' (hu : u = false) : 1 ≤ size.toNat ∧ size.toNat ≤ c.rabCap := size_of_legal fun e => hsize ⟨hu, e⟩
  have hsend (hd : dir = .tx) : u = false := Bool.eq_false_iff.mpr fun hu => hparam ⟨hd, hu⟩
  refine ⟨⟨rfl, rfl, rfl, rfl⟩, fun _ => rfl, fun _ => rfl, ?total_le, Nat.zero_le _, hsend, ?known, ?unknown, nofun, nofun,
    ?send_left⟩
  case total_le =>
    cases u with
    | true => exact Nat.zero_le _
    | false => exact (hsize' rfl).2
  case known =>
    rintro (rfl : u = false)
    exact ⟨(hsize' rfl).1, Nat.zero_le _⟩
  case unknown =>
    rintro (rfl : u = true) _
    rfl
  case send_left =>
    intro hd _
    obtain rfl := hsend hd
    exact (hsize' rfl).1

/-- SEQ as SQBLK starts it (R204). -/
theorem Sequencer.blkOk_start {dir : Dir} {sl : SlotNo} {size nb : Word} (hsize : ¬ sizeIllegal c size = true)
    (hnb : ¬ blksizeIllegal nb = true) :
    Sequencer.BlkOk c { Sequencer.idle with
      mode := .blk, dir := dir, slot := sl, blksize := nb.setWidth 7, total := size } := by
  obtain ⟨hpos, hle⟩ := size_of_legal hsize
  exact ⟨⟨rfl, rfl, rfl, rfl, rfl, rfl⟩, blksize_of_legal hnb, hpos, hle, Nat.zero_le _, hpos, (Nat.min_zero _).symm,
    nofun, fun _ => ⟨blksize_of_legal hnb, hpos⟩⟩

end

/-! ## Session records -/

section
variable {c : Config} {r : Slot}

/-- npkt has room to spare in 24 bits, RAB_CAP being below 2^24. -/
theorem packetCount_lt {size : Nat} (hc : c.wf) (h : size ≤ c.rabCap) : packetCount size + 1 < 2 ^ 24 := by
  obtain ⟨-, -, -, hcap⟩ := hc
  unfold packetCount
  omega

theorem Slot.SessionOk.npkt_lt (h : r.SessionOk c) (hc : c.wf) : r.npkt.toNat + 1 < 2 ^ 24 :=
  h.npkt ▸ packetCount_lt hc h.size_le

/-- The record RAOPEN gives a slot (R254, R258). -/
theorem Slot.sessionOk_fresh {mode : SlotMode} {proto : Proto} {sa da : Byte} {pgn : BitVec 24} {size : Word}
    (hc : c.wf) (hmode : ¬ (proto = .etp ∧ mode.bam = true))
    (hsize : ¬ (size.toNat = 0 ∨ maxSize c proto < size.toNat)) :
    (Slot.fresh mode proto sa da pgn size).SessionOk c := by
  have hmax : maxSize c proto ≤ c.rabCap := by
    obtain ⟨-, -, hcap, -⟩ := hc
    cases proto with
    | tp => exact hcap
    | etp => exact Nat.le_refl _
  have hle : size.toNat ≤ c.rabCap := by omega
  have hnpkt : (Slot.fresh mode proto sa da pgn size).npkt.toNat = packetCount size.toNat :=
    Nat.mod_eq_of_lt (Nat.lt_of_succ_lt (packetCount_lt hc hle))
  have hpos : 1 ≤ packetCount size.toNat := by
    unfold packetCount
    omega
  exact {
    size_pos := by show 1 ≤ size.toNat; omega
    size_le := hle
    tp_size := fun (e : proto = .tp) => by subst e; exact Nat.le_of_not_lt fun h => hsize (.inr h)
    npkt := hnpkt
    next_pos := Nat.le_refl _
    next_le := Nat.succ_le_succ (Nat.zero_le _)
    done_iff := ⟨nofun, fun e => absurd (Nat.succ.inj (e.trans (congrArg (· + 1) hnpkt))).symm (by omega)⟩
    wrecv_le := Nat.le_refl _
    start_pos := Nat.le_refl _
    window_le := Nat.succ_le_succ (Nat.zero_le _)
    taken_le := Nat.le_refl _
    etp_mode := fun e => Bool.eq_false_iff.mpr fun hb => hmode ⟨e, hb⟩
    bam_window := fun _ => ⟨rfl, rfl, rfl⟩
    dpo_law := nofun
    granted := nofun }

theorem Slot.SessionOk.next_le_npkt (h : r.SessionOk c) (ho : r.state = .opened) : r.next.toNat ≤ r.npkt.toNat := by
  have hne : r.next.toNat ≠ r.npkt.toNat + 1 := fun e => by simp [h.done_iff.mpr e] at ho
  have hle := h.next_le
  omega

/-- The record after RACTS (R266). -/
def Slot.afterGrant (r : Slot) (offer : BitVec 8) : Slot :=
  { r with
    wstart := r.next, wcount := r.grant offer, wrecv := 0
    dpok := if r.proto = .etp then false else r.dpok }

theorem Slot.SessionOk.afterGrant (h : r.SessionOk c) (hm : r.mode = .rxRts) (offer : BitVec 8) :
    (r.afterGrant offer).SessionOk c := by
  have hgrant : (r.grant offer).toNat ≤ r.npkt.toNat + 1 - r.next.toNat := by
    unfold Slot.grant
    rw [BitVec.toNat_ofNat]
    exact (Nat.mod_le _ _).trans (Nat.min_le_right _ _)
  have hle := h.next_le
  exact {
    h with
    wrecv_le := Nat.zero_le _
    start_pos := h.next_pos
    window_le := by show r.next.toNat + (r.grant offer).toNat ≤ r.npkt.toNat + 1; omega
    taken_le := Nat.le_refl _
    bam_window := fun (hb : r.mode.bam = true) => by simp [hm, SlotMode.bam] at hb
    dpo_law := fun hk => by
      cases hp : r.proto with
      | etp => simp [Slot.afterGrant, hp] at hk
      | tp =>
        have hold : r.dpok = true := by simpa [Slot.afterGrant, hp] using hk
        simpa [hp] using (h.dpo_law hold).1
    granted := fun _ (hm' : r.mode = .txRts) => by simp [hm] at hm' }

/-- The record after RACTSTX with count 0 (R269). -/
theorem Slot.SessionOk.hold (h : r.SessionOk c) (hm : r.mode = .txRts) :
    { r with wcount := 0, wrecv := 0 }.SessionOk c :=
  { h with
    wrecv_le := Nat.le_refl _
    window_le := (Nat.add_le_add_left (Nat.zero_le _) _).trans h.window_le
    taken_le := (Nat.add_le_add_left (Nat.zero_le _) _).trans h.taken_le
    bam_window := fun (hb : r.mode.bam = true) => by simp [hm, SlotMode.bam] at hb
    granted := fun _ _ hpos => absurd hpos (by simp) }

/-- The record after RACTSTX with count cnt from packet nx on (R269). -/
def Slot.afterCts (r : Slot) (nx cnt : Nat) : Slot :=
  { r with
    next := BitVec.ofNat 24 nx, wstart := BitVec.ofNat 24 nx, wcount := BitVec.ofNat 8 cnt, wrecv := 0
    state := .opened
    dpo := if r.proto = .etp then BitVec.ofNat 24 (nx - 1) else r.dpo
    dpok := if r.proto = .etp then true else r.dpok }

theorem Slot.SessionOk.afterCts (h : r.SessionOk c) (hc : c.wf) (hm : r.mode = .txRts) {nx cnt : Nat} (hcnt : cnt ≠ 0)
    (hok : ¬ (255 < cnt ∨ nx < 1 ∨ r.npkt.toNat + 1 < nx + cnt)) : (r.afterCts nx cnt).SessionOk c := by
  have hlt := h.npkt_lt hc
  have hnext : (r.afterCts nx cnt).next.toNat = nx := Nat.mod_eq_of_lt (by omega)
  have hstart : (r.afterCts nx cnt).wstart.toNat = nx := hnext
  have hcount : (r.afterCts nx cnt).wcount.toNat = cnt := Nat.mod_eq_of_lt (by omega)
  exact {
    h with
    next_pos := by omega
    next_le := by show _ ≤ r.npkt.toNat + 1; omega
    done_iff := ⟨nofun, fun e => by
      have e' : (r.afterCts nx cnt).next.toNat = r.npkt.toNat + 1 := e
      omega⟩
    wrecv_le := Nat.zero_le _
    start_pos := by omega
    window_le := by show _ ≤ r.npkt.toNat + 1; omega
    taken_le := Nat.le_refl _
    bam_window := fun (hb : r.mode.bam = true) => by simp [hm, SlotMode.bam] at hb
    dpo_law := fun hk => by
      cases hp : r.proto with
      | etp =>
        have hdpo : (r.afterCts nx cnt).dpo.toNat = nx - 1 := by
          simp only [Slot.afterCts, hp, if_true]
          exact Nat.mod_eq_of_lt (by omega)
        exact ⟨hp, by omega⟩
      | tp =>
        have hold : r.dpok = true := by simpa [Slot.afterCts, hp] using hk
        simpa [hp] using (h.dpo_law hold).1
    granted := fun (hp : r.proto = .etp) _ _ => by simp [Slot.afterCts, hp] }

/-- The record after RADPO with count cnt and offset off (R272). -/
def Slot.afterDpo (r : Slot) (off cnt : Nat) : Slot :=
  { r with dpo := BitVec.ofNat 24 off, wcount := BitVec.ofNat 8 cnt, wrecv := 0, dpok := true }

theorem Slot.SessionOk.afterDpo (h : r.SessionOk c) (hm : r.mode = .rxRts) (hp : r.proto = .etp) {off cnt : Nat}
    (hok : ¬ (off + 1 ≠ r.wstart.toNat ∨ cnt < 1 ∨ r.wcount.toNat < cnt)) : (r.afterDpo off cnt).SessionOk c := by
  have hstart := r.wstart.isLt
  have hwin := h.window_le
  have hcount : (r.afterDpo off cnt).wcount.toNat = cnt := Nat.mod_eq_of_lt (by have := r.wcount.isLt; omega)
  have hdpo : (r.afterDpo off cnt).dpo.toNat = off := Nat.mod_eq_of_lt (by omega)
  exact {
    h with
    wrecv_le := Nat.zero_le _
    window_le := by show r.wstart.toNat + _ ≤ r.npkt.toNat + 1; omega
    taken_le := (Nat.add_le_add_left (Nat.zero_le _) _).trans h.taken_le
    bam_window := fun (hb : r.mode.bam = true) => by simp [hm, SlotMode.bam] at hb
    dpo_law := fun _ => ⟨hp, by show _ = r.wstart.toNat; omega⟩
    granted := fun _ _ _ => rfl }

/-! ### The next packet (R275, R281) -/

/-- A mode with flow control (R252). -/
def SlotMode.rts (m : SlotMode) : Bool := m == .rxRts || m == .txRts

/-- The packet `next` may go through: it exists and lies in the window, if there is one. -/
structure Slot.NextFits (r : Slot) : Prop where
  opened : r.state = .opened
  le_npkt : r.next.toNat ≤ r.npkt.toNat
  in_window : r.mode.rts = true → r.next.toNat < r.wstart.toNat + r.wcount.toNat

/-- What advance does to each field. -/
structure Slot.Advanced (r r' : Slot) (p : Nat) (clearDpok : Bool) : Prop where
  next : r'.next = BitVec.ofNat 24 (p + 1)
  wrecv : r'.wrecv = if r.mode.rts then BitVec.ofNat 8 (r.wrecv.toNat + 1) else r.wrecv
  state : r'.state = if r.npkt.toNat < r'.next.toNat then .done else r.state
  dpok : r'.dpok = r.dpok ∨ (clearDpok = true ∧ r'.dpok = false)
  rest : r' = { r with next := r'.next, wrecv := r'.wrecv, state := r'.state, dpok := r'.dpok }

theorem Slot.advance_advanced (r : Slot) (p : Nat) (k : Bool) : r.Advanced (r.advance p k).1 p k := by
  unfold Slot.advance
  extract_lets rts r1
  have hnpkt : r1.npkt = r.npkt := rfl
  have hstate : r1.state = r.state := rfl
  split
  next hlast => exact ⟨rfl, rfl, by simp [hnpkt ▸ hlast], .inl rfl, rfl⟩
  next hlast =>
    rw [hnpkt] at hlast
    split
    · split
      next hclear =>
        simp only [Bool.and_eq_true] at hclear
        exact ⟨rfl, rfl, (if_neg hlast).symm, .inr ⟨hclear.1, rfl⟩, rfl⟩
      · exact ⟨rfl, rfl, (if_neg hlast).symm, .inl rfl, rfl⟩
    · exact ⟨rfl, rfl, (if_neg hlast).symm, .inl rfl, rfl⟩

section
variable {r' : Slot} {p : Nat} {k : Bool}

theorem Slot.Advanced.key_eq (h : r.Advanced r' p k) : r'.key = r.key := by
  rw [h.rest]
  rfl

theorem Slot.Advanced.keyed (h : r.Advanced r' p k) (ho : r.state = .opened) : r'.keyed = true := by
  rw [Slot.keyed_iff, h.state]
  split
  · exact .inr rfl
  · exact .inl ho

/-- One packet more fits the counts of the window. -/
theorem Slot.Advanced.wrecv_le (h : r.SessionOk c) (ha : r.Advanced r' r.next.toNat k) (hf : r.NextFits) :
    r'.wrecv.toNat ≤ r.wcount.toNat ∧ r.wstart.toNat + r'.wrecv.toNat ≤ r.next.toNat + 1 := by
  have htaken := h.taken_le
  have hwle := h.wrecv_le
  rw [ha.wrecv]
  split
  next hrts =>
    have hin := hf.in_window hrts
    have hcount := r.wcount.isLt
    have hsucc : (BitVec.ofNat 8 (r.wrecv.toNat + 1)).toNat = r.wrecv.toNat + 1 := Nat.mod_eq_of_lt (by omega)
    omega
  · omega

/-- Packet next taken in or sent keeps the record legal; a flow-controlled send keeps its dpok. -/
theorem Slot.SessionOk.advanced (h : r.SessionOk c) (hc : c.wf) (ha : r.Advanced r' r.next.toNat k) (hf : r.NextFits)
    (hk : k = true → r.mode ≠ .txRts) : r'.SessionOk c := by
  have hnpkt := h.npkt_lt hc
  have hle := hf.le_npkt
  have hnext : r'.next.toNat = r.next.toNat + 1 := by
    rw [ha.next]
    exact Nat.mod_eq_of_lt (by omega)
  obtain ⟨hwindow, htaken⟩ := ha.wrecv_le h hf
  rw [ha.rest]
  exact {
    h with
    next_pos := by show 1 ≤ r'.next.toNat; omega
    next_le := by show r'.next.toNat ≤ r.npkt.toNat + 1; omega
    done_iff := by
      show r'.state = .done ↔ r'.next.toNat = r.npkt.toNat + 1
      rw [ha.state, hf.opened]
      split
      · exact ⟨fun _ => by omega, fun _ => rfl⟩
      · exact ⟨nofun, fun _ => by omega⟩
    wrecv_le := hwindow
    taken_le := hnext ▸ htaken
    bam_window := fun (hb : r.mode.bam = true) => by
      obtain ⟨hwcount, hwrecv, hwstart⟩ := h.bam_window hb
      have hrts : ¬ r.mode.rts = true := by
        revert hb
        cases r.mode <;> decide
      exact ⟨hwcount, (ha.wrecv.trans (if_neg hrts)).trans hwrecv, hwstart⟩
    dpo_law := fun (hd : r'.dpok = true) => by
      obtain hsame | ⟨-, hclear⟩ := ha.dpok
      · exact h.dpo_law (hsame ▸ hd)
      · simp [hd] at hclear
    granted := fun hp (hm : r.mode = .txRts) hpos => by
      obtain hsame | ⟨hclear, -⟩ := ha.dpok
      · exact hsame.trans (h.granted hp hm hpos)
      · exact absurd hm (hk hclear) }

end

theorem Slot.receiving_iff (r : Slot) :
    r.receiving = true ↔ r.state = .opened ∧ (r.mode = .rxBam ∨ r.mode = .rxRts) := by
  simp [Slot.receiving]

theorem Slot.sending_iff (r : Slot) : r.sending = true ↔ r.state = .opened ∧ (r.mode = .txBam ∨ r.mode = .txRts) := by
  simp [Slot.sending]

/-- RADT's checks (R275) leave only a packet that fits. -/
theorem Slot.SessionOk.nextFits_of_receiving (h : r.SessionOk c) (hr : r.receiving = true)
    (hp : ¬ r.pastWindow r.next.toNat = true) : r.NextFits := by
  obtain ⟨hopen, hmode⟩ := r.receiving_iff.mp hr
  refine ⟨hopen, h.next_le_npkt hopen, fun hrts => ?_⟩
  obtain hm | hm := hmode
  · simp [hm, SlotMode.rts] at hrts
  · simpa [Slot.pastWindow, hm] using hp

/-- RATX's checks (R281) leave only a packet that fits. -/
theorem Slot.SessionOk.nextFits_of_sending (h : r.SessionOk c) (hr : r.sending = true) (hg : ¬ r.grantUsed = true) :
    r.NextFits := by
  obtain ⟨hopen, hmode⟩ := r.sending_iff.mp hr
  refine ⟨hopen, h.next_le_npkt hopen, fun hrts => ?_⟩
  obtain hm | hm := hmode
  · simp [hm, SlotMode.rts] at hrts
  · have hgrant : ¬ r.wcount.toNat = 0 ∧ r.next.toNat < r.wstart.toNat + r.wcount.toNat := by
      simpa [Slot.grantUsed, hm] using hg
    exact hgrant.2

/-- The bytes of a packet that fits lie inside the payload. -/
theorem Slot.SessionOk.packet_le (h : r.SessionOk c) (hle : r.next.toNat ≤ r.npkt.toNat) :
    packetBase r.next.toNat + chunkLen r.size.toNat (packetBase r.next.toNat) ≤ c.rabCap :=
  (add_chunkLen_le (packetBase_lt (h.npkt ▸ hle) h.next_pos).le).trans h.size_le

end

end Sys2Proof.Machine
end

section
/-! PROOF. Obligation O10 (spec/20_memory.md R102 and every command's own rule): how each of the 35 commands ends, its checks
in the order of its rule, and from that the frame of every command. -/

namespace Sys2Proof.Machine

/-! ## Frames that a command may build -/

/-- FINIT's check of the identifier (R172). -/
theorem Frame.idLegal_of_not_tooWide {fmt : IdFormat} {v : Word} {len : Fin 9} {data : Vector Byte 8}
    (h : ¬ idTooWide fmt v = true) :
    Frame.IdLegal { id := v.extractLsb' 0 29, ext := fmt, len := len, data := data } := by
  rintro (rfl : fmt = .std)
  simp only [idTooWide, decide_eq_true_eq] at h
  rw [toNat_field]
  omega

/-- A bit field of the identifier lies below its width (R184), so FPUTX keeps a standard identifier to 11 bits. -/
theorem Frame.IdLegal.writeBits {fr : Frame} {sp : Space} {pos n : Nat} {x : Word} (h : fr.IdLegal)
    (hb : fr.bitsOk sp pos n = true) : (fr.writeBits sp pos n x).IdLegal := by
  cases sp with
  | payload => exact h
  | ident =>
    intro (he : fr.ext = .std)
    obtain ⟨hn, hpos⟩ : n ≤ pos + 1 ∧ pos < 11 := by simpa [Frame.bitsOk, Frame.identBitsOk, Frame.idWidth, he] using hb
    have hold : fr.id.toNat < 2 ^ 11 := h he
    show (putBits fr.id (pos + 1 - n) n x).toNat < 2 ^ 11
    have hkept : (fr.id &&& ~~~((BitVec.allOnes n).setWidth 29 <<< (pos + 1 - n))).toNat < 2 ^ 11 := by
      rw [BitVec.toNat_and]
      exact lt_of_le_of_lt Nat.and_le_left hold
    have hnew : ((x.setWidth n).setWidth 29 <<< (pos + 1 - n) : BitVec 29).toNat < 2 ^ 11 := by
      rw [BitVec.toNat_shiftLeft, Nat.shiftLeft_eq]
      refine lt_of_le_of_lt (Nat.mod_le _ _) ?_
      have hx : ((x.setWidth n).setWidth 29).toNat < 2 ^ n := by
        rw [BitVec.toNat_setWidth]
        exact lt_of_le_of_lt (Nat.mod_le _ _) (x.setWidth n).isLt
      calc _ < 2 ^ n * 2 ^ (pos + 1 - n) := Nat.mul_lt_mul_of_pos_right hx (Nat.two_pow_pos _)
        _ = 2 ^ (pos + 1) := by rw [← Nat.pow_add]; congr 1; omega
        _ ≤ 2 ^ 11 := Nat.pow_le_pow_right (by omega) (by omega)
    unfold putBits
    rw [BitVec.toNat_or]
    exact Nat.or_lt_two_pow hkept hnew

/-! ## One lemma per command -/

section Commands

variable (s : State) (e : ByteOrder) (sl : SlotNo) (a b c : DReg) (f : FrameReg)

/-! ### The general commands, the frame unit and the CRC unit (spec/40_general.md, 41_frame_unpacker.md, 45_crc.md) -/

theorem execNop_ends : Ends (Instr.nop.footprint s) s (execNop s) := .refused nofun

theorem execLdi_ends (imm : BitVec 16) : Ends ((Instr.ldi a imm).footprint s) s (execLdi a imm s) :=
  .returned_one nofun (.dreg (List.mem_singleton_self a))

theorem execLdih_ends (imm : BitVec 16) : Ends ((Instr.ldih a imm).footprint s) s (execLdih a imm s) :=
  .returned_one nofun (.dreg (List.mem_singleton_self a))

theorem execFinit_ends (fmt : IdFormat) (len : BitVec 4) (fill : Byte) :
    Ends ((Instr.finit f a fmt len fill).footprint s) s (execFinit f a fmt len fill s) :=
  .unless_raised fun _ => .unless_raised fun hid =>
    .returned_one nofun (.frame (List.mem_singleton_self f) fun _ => Frame.idLegal_of_not_tooWide hid)

theorem execFcopy_ends (g : FrameReg) : Ends ((Instr.fcopy f g).footprint s) s (execFcopy f g s) :=
  .returned_one nofun (.frame (List.mem_singleton_self f) fun h => h.std_id g)

theorem execFgetb_ends (off : BitVec 3) (w : Nat) :
    Ends ((Instr.fgetb e a f off w).footprint s) s (execFgetb e a f off w s) :=
  .unless_raised fun _ => .returned_one nofun (.dreg (List.mem_singleton_self a))

theorem execFputb_ends (off : BitVec 3) (w : Nat) :
    Ends ((Instr.fputb e f off w a).footprint s) s (execFputb e f off w a s) :=
  .unless_raised fun _ => .returned_one nofun (.frame (List.mem_singleton_self f) fun h => h.std_id f)

theorem execFgetx_ends (sp : Space) (pos : BitVec 6) (n : Nat) :
    Ends ((Instr.fgetx a f sp pos n).footprint s) s (execFgetx a f sp pos n s) :=
  .ite (fun _ => .returned_one nofun (.dreg (List.mem_singleton_self a))) fun _ => .raised

theorem execFputx_ends (sp : Space) (pos : BitVec 6) (n : Nat) :
    Ends ((Instr.fputx f sp pos n a).footprint s) s (execFputx f sp pos n a s) :=
  .ite (fun hb => .returned_one nofun (.frame (List.mem_singleton_self f) fun h =>
    Frame.IdLegal.writeBits (h.std_id f) hb)) fun _ => .raised

theorem execFclass_ends : Ends ((Instr.fclass a f).footprint s) s (execFclass a f s) :=
  .returned_one nofun (.dreg (List.mem_singleton_self a))

theorem execCrcclr_ends : Ends (Instr.crcclr.footprint s) s (execCrcclr s) := .returned_one nofun (.crc rfl)

theorem execCrcf_ends (off : BitVec 3) (n : BitVec 4) : Ends ((Instr.crcf f off n).footprint s) s (execCrcf f off n s) :=
  .unless_raised fun _ => .unless_raised fun _ => .returned_one nofun (.crc rfl)

theorem execCrcb_ends : Ends ((Instr.crcb sl a b).footprint s) s (execCrcb sl a b s) := by
  refine .unless_raised fun hsl => .unless_raised fun _ => .unless_raised fun hcap => ?_
  split
  next h => exact .stopped_memRead h fun _ => ⟨Nat.lt_of_not_le hsl, Nat.le_of_not_lt hcap⟩
  · exact .returned_one nofun (.crc rfl)

theorem execCrcrd_ends : Ends ((Instr.crcrd a).footprint s) s (execCrcrd a s) :=
  .returned_one nofun (.dreg (List.mem_singleton_self a))

theorem execCrcchk_ends : Ends ((Instr.crcchk a).footprint s) s (execCrcchk a s) :=
  .unless_refused nofun fun _ => .refused nofun

/-! ### Buffer access (spec/44_buffer.md) -/

theorem execBrd_ends (w : Nat) : Ends ((Instr.brd e a sl b w).footprint s) s (execBrd e a sl b w s) := by
  refine .unless_raised fun hsl => .unless_raised fun _ => .unless_raised fun hcap => ?_
  split
  next h => exact .stopped_memRead h fun _ => ⟨Nat.lt_of_not_le hsl, Nat.le_of_not_lt hcap⟩
  · exact .returned_one nofun (.dreg (List.mem_singleton_self a))

variable {s} in
/-- A MemWrite that was answered is a store. -/
theorem Update.of_memWrite {p : Footprint} {t : State} {x : SlotNo} {off : Nat} {bs : List Byte} {n : Nat}
    (h : s.memWrite x off bs = some t) (hn : bs.length = n) (hp : { sl := x, off := off, n := n } ∈ p.bytes) :
    Update p s t := by
  obtain ⟨hin, rfl⟩ := State.memWrite_eq_some.mp h
  exact .store (hn ▸ hp) hin

theorem execBwr_ends (w : Nat) : Ends ((Instr.bwr e sl b w a).footprint s) s (execBwr e sl b w a s) := by
  refine .unless_raised fun hsl => .unless_raised fun _ => .unless_raised fun hcap => ?_
  have hlen := length_fieldBytes e (s.dreg a) w
  split
  next h => exact .stopped_memWrite h fun _ => ⟨Nat.lt_of_not_le hsl, hlen.symm ▸ Nat.le_of_not_lt hcap⟩
  next h => exact .returned_one nofun (.of_memWrite h hlen (List.mem_singleton_self _))

/-- A byte range inside the declared payload has as many bytes as asked for. -/
theorem Frame.length_bytes_of_le_len {fr : Frame} {off n : Nat} (h : ¬ fr.len.val < off + n) :
    (fr.bytes off n).length = n := by
  rw [Frame.length_bytes]
  omega

/-- The data bytes of a segment or packet, behind its byte 0. -/
theorem Frame.length_bytes_one (fr : Frame) {n : Nat} (h : n ≤ 7) : (fr.bytes 1 n).length = n := by
  rw [Frame.length_bytes]
  omega

theorem State.memWrite_seq {s t : State} {x : SlotNo} {off : Nat} {bs : List Byte} (h : s.memWrite x off bs = some t) :
    t.seq = s.seq := by
  obtain ⟨-, rfl⟩ := State.memWrite_eq_some.mp h
  rfl

theorem execFtob_ends (fo : BitVec 3) (n : BitVec 4) :
    Ends ((Instr.ftob sl b f fo n).footprint s) s (execFtob sl b f fo n s) := by
  refine .unless_raised fun hsl => .unless_raised fun _ => .unless_raised fun hf =>
    .unless_raised fun _ => .unless_raised fun hcap => ?_
  have hlen := Frame.length_bytes_of_le_len hf
  split
  next h => exact .stopped_memWrite h fun _ => ⟨Nat.lt_of_not_le hsl, hlen.symm ▸ Nat.le_of_not_lt hcap⟩
  next h => exact .returned_one nofun (.of_memWrite h hlen (List.mem_singleton_self _))

theorem execBtof_ends (fo : BitVec 3) (n : BitVec 4) :
    Ends ((Instr.btof f fo n sl b).footprint s) s (execBtof f fo n sl b s) := by
  refine .unless_raised fun hsl => .unless_raised fun _ => .unless_raised fun _ =>
    .unless_raised fun _ => .unless_raised fun hcap => ?_
  split
  next h => exact .stopped_memRead h fun _ => ⟨Nat.lt_of_not_le hsl, Nat.le_of_not_lt hcap⟩
  · exact .returned_one nofun (.frame (List.mem_singleton_self f) fun h => h.std_id f)

/-! ### The sequencer (spec/42_sequencer.md) -/

theorem execSqseg_ends (dir : Dir) (role : Role) (u : Bool) :
    Ends ((Instr.sqseg sl a dir role u).footprint s) s (execSqseg sl a dir role u s) :=
  .unless_raised fun hsl => .unless_raised fun hm => .unless_raised fun hf =>
    .unless_raised fun hparam => .unless_refused nofun fun hsize =>
      .returned_one nofun (.bind rfl (List.mem_singleton_self sl) (Nat.lt_of_not_le hsl) (not_not.mp hm) (not_not.mp hf)
        nofun (.of_seg rfl (Sequencer.segOk_start hparam hsize)))

theorem execSqblk_ends (dir : Dir) : Ends ((Instr.sqblk sl a b dir).footprint s) s (execSqblk sl a b dir s) :=
  .unless_raised fun hsl => .unless_raised fun hm => .unless_raised fun hf =>
    .unless_raised fun hnb => .unless_refused nofun fun hsize =>
      .returned_one nofun (.bind rfl (List.mem_singleton_self sl) (Nat.lt_of_not_le hsl) (not_not.mp hm) (not_not.mp hf)
        nofun (.of_blk rfl (Sequencer.blkOk_start hsize hnb)))

variable {s f} in
/-- The frame a protocol command builds keeps its identifier (R171). -/
theorem Update.of_produced {p : Footprint} (hp : f ∈ p.frames) (bytes : Vector Byte 8) :
    Update p s (s.setFrame f ((s.frame f).produced bytes)) :=
  .frame hp fun h => h.std_id f

/-- The segment that SEQ is about to move lies inside its slot. -/
theorem State.SeqOk.inBuf_chunk {s : State} (h : s.SeqOk) (hd : s.seq.done.toNat ≤ s.seq.total.toNat)
    (ht : s.seq.total.toNat ≤ s.cfg.rabCap) :
    s.inBuf s.seq.slot s.seq.done.toNat (chunkLen s.seq.total.toNat s.seq.done.toNat) :=
  ⟨h.slot, (add_chunkLen_le hd).trans ht⟩

variable {s} in
/-- A transfer's command that ends with an update of SEQ, after updates that left SEQ alone. -/
theorem Ends.returned_transfer {p : Footprint} {u : State} {q : Sequencer} {op : BitVec 6} {code : ResultCode}
    (hcode : code ≠ .faulted) (hu : Updates p s u) (hus : u.seq = s.seq) (hp : p.seq = true) (hi : s.seq.mode ≠ .idle)
    (hm : q.mode ≠ .idle) (hs : q.slot = s.seq.slot) (hq : s.cfg.wf → s.seq.Legal s.cfg → q.Legal s.cfg) :
    Ends p s (complete op code (u.setSeq q)) :=
  .returned hcode (.tail hu (.transfer hp (hus ▸ hi) hm (hus ▸ hs) (by rwa [hus, hu.keepsOutside.cfg])))

variable {s} in
/-- SQSEND's last lines (R207) at v, which is u with SEQ set to q. -/
theorem Ends.sendHalf {p : Footprint} {u v : State} {q : Sequencer} (hu : Updates p s u) (hus : u.seq = s.seq)
    (hv : ∀ q', v.setSeq q' = u.setSeq q') (hvq : v.seq = q) (hp : p.seq = true) (hi : s.seq.mode ≠ .idle)
    (hm : q.mode ≠ .idle) (hs : q.slot = s.seq.slot) (hq : s.cfg.wf → s.seq.Legal s.cfg → q.afterSend.Legal s.cfg) :
    Ends p s (sendHalf v) := by
  obtain ⟨code, hcode, heq⟩ := sendHalf_eq v
  rw [heq, hvq, hv]
  exact .returned_transfer hcode hu hus hp hi (Sequencer.afterSend_mode_ne_idle hm) ((Sequencer.afterSend_slot q).trans hs) hq

variable {s} in
/-- SQRECV's last lines (R211) at v, which is u with SEQ set to q. -/
theorem Ends.recvHalf {p : Footprint} {u v : State} {q : Sequencer} (hu : Updates p s u) (hus : u.seq = s.seq)
    (hv : ∀ q', v.setSeq q' = u.setSeq q') (hvq : v.seq = q) (hp : p.seq = true) (hi : s.seq.mode ≠ .idle)
    (hm : q.mode ≠ .idle) (hs : q.slot = s.seq.slot) (hq : s.cfg.wf → s.seq.Legal s.cfg → q.afterRecv.Legal s.cfg) :
    Ends p s (recvHalf v) := by
  obtain ⟨code, hcode, heq⟩ := recvHalf_eq v
  rw [heq, hvq, hv]
  exact .returned_transfer hcode hu hus hp hi (Sequencer.afterRecv_mode_ne_idle hm) ((Sequencer.afterRecv_slot q).trans hs) hq

theorem execSqsend_ends (cs : BitVec 3) : Ends ((Instr.sqsend f cs).footprint s) s (execSqsend f cs s) := by
  refine .unless_raised fun hturn => ?_
  obtain ⟨hm, -, -⟩ := sendOutOfTurn_eq_false hturn
  have hi : s.seq.mode ≠ .idle := by simp [hm]
  have hf : f ∈ ((Instr.sqsend f cs).footprint s).frames := List.mem_singleton_self f
  cases hd : s.seq.dir with
  | tx =>
    dsimp only
    split
    next h =>
      refine .stopped_memRead h fun hs => hs.seq.inBuf_chunk ?_ (hs.seq.seg hm).total_le
      exact ((hs.seq.seg hm).known ((hs.seq.seg hm).send_known hd)).2
    next bs h =>
      refine .sendHalf (q := s.seq.sentSegment) (.single (.of_produced hf _)) (State.setFrame_seq ..)
        (State.setSeq_setSeq _ _) rfl rfl hi hi rfl fun hc hq => ?_
      have hround := (hq.seg hm).roundOk.sentSegment hc hd
      exact hround.afterSend_legal hm fun hr => ⟨(hq.seg hm).client_turn hr, fun _ => hd⟩
  | rx =>
    refine .sendHalf (.single (.of_produced hf _)) (State.setFrame_seq ..) (fun _ => rfl) (State.setFrame_seq ..) rfl hi hi
      rfl fun _ hq => ?_
    refine (hq.seg hm).roundOk.afterSend_legal hm fun hr => ⟨(hq.seg hm).client_turn hr, fun hfin => ?_⟩
    have hnf := (hq.seg hm).fin_eq_false_of_rx hd (fun e => by simp [hr] at e)
    simp [hfin] at hnf

theorem execSqrecv_ends (cs : BitVec 3) : Ends ((Instr.sqrecv f cs).footprint s) s (execSqrecv f cs s) := by
  refine .unless_raised fun hturn => .unless_refused nofun fun _ => .unless_refused nofun fun _ =>
    .unless_refused nofun fun _ => ?_
  obtain ⟨hm, -, hserver⟩ := recvOutOfTurn_eq_false hturn
  have hi : s.seq.mode ≠ .idle := by simp [hm]
  cases hd : s.seq.dir with
  | tx =>
    refine .recvHalf .refl rfl (fun _ => rfl) rfl rfl hi hi rfl fun _ hq => ?_
    refine (hq.seg hm).roundOk.afterRecv_legal hm fun hr => ⟨(hq.seg hm).server_turn hr, fun hfin => ?_⟩
    obtain ⟨-, hrole, -⟩ | ⟨hdir, -, -⟩ := (hq.seg hm).final_turn hfin
    · simp [hr] at hrole
    · exact hdir
  | rx =>
    refine .unless_refused nofun fun hlim => .unless_refused nofun fun hlen => ?_
    have hlim' := Nat.le_of_not_lt hlim
    have hbytes := (s.frame f).length_bytes_one (Nat.sub_le 7 ((s.frame f).data[0].extractLsb' 1 3).toNat)
    split
    next h =>
      refine .stopped_memWrite h fun hs => ⟨hs.seq.slot, ?_⟩
      rw [hbytes]
      exact hlim'.trans (hs.seq.seg hm).roundOk.limit_le
    next u h =>
      have hstore : Update ((Instr.sqrecv f cs).footprint s) s u :=
        .of_memWrite h hbytes (by simp [Instr.footprint, State.recvRange, hd])
      refine .recvHalf (q := s.seq.tookSegment (7 - ((s.frame f).data[0].extractLsb' 1 3).toNat)
        ((s.frame f).data[0].getLsbD 0) ((s.frame f).data[0].extractLsb' 1 3)) (.single hstore) (State.memWrite_seq h)
        (State.setSeq_setSeq _ _) rfl rfl hi hi rfl fun hc hq => ?_
      have hnf := (hq.seg hm).fin_eq_false_of_rx hd hserver
      have hround := (hq.seg hm).roundOk.tookSegment (lastn := (s.frame f).data[0].extractLsb' 1 3) hc hd hnf hlim'
        (fun hfin hunk => by_contra fun hne => hlen ⟨hfin, hunk, hne⟩)
      exact hround.afterRecv_legal hm fun hr => ⟨(hq.seg hm).server_turn hr, fun _ => hd⟩

theorem segmentCode_ne_faulted (ends : Bool) : (if ends then ResultCode.blockEnd else ResultCode.ok) ≠ .faulted :=
  ResultCode.ne_faulted_of_success (segmentCode_success ends)

theorem execSqbtx_ends : Ends ((Instr.sqbtx f).footprint s) s (execSqbtx f s) := by
  refine .unless_raised fun hturn => ?_
  obtain ⟨hm, -, hb⟩ : s.seq.mode = .blk ∧ s.seq.dir = .tx ∧ s.seq.bend = false := by simpa using hturn
  have hi : s.seq.mode ≠ .idle := by simp [hm]
  dsimp only
  split
  next h => exact .stopped_memRead h fun hs => hs.seq.inBuf_chunk (hs.seq.blk hm).done_le (hs.seq.blk hm).total_le
  · refine .returned_transfer (segmentCode_ne_faulted _)
      (.single (.of_produced (List.mem_singleton_self f) _)) (State.setFrame_seq ..) rfl hi hi rfl
      fun hc hq => ?_
    have hblk := hq.blk hm
    have hroom := hblk.running hb
    have hnum : (BitVec.ofNat 7 (s.seq.seqno.toNat + 1)).toNat = s.seq.seqno.toNat + 1 :=
      Nat.mod_eq_of_lt (lt_of_le_of_lt hroom.1 s.seq.blksize.isLt)
    refine .of_blk hm (hblk.nextSegment hc hb hnum fun hends => ?_)
    rw [hnum]
    simpa using hends

theorem execSqbrx_ends : Ends ((Instr.sqbrx f).footprint s) s (execSqbrx f s) := by
  refine .unless_raised fun hturn => .unless_refused nofun fun _ => .unless_refused nofun fun _ =>
    .unless_refused nofun fun hdup => .unless_refused nofun fun hgap => ?_
  obtain ⟨hm, -, hb⟩ : s.seq.mode = .blk ∧ s.seq.dir = .rx ∧ s.seq.bend = false := by simpa using hturn
  have hi : s.seq.mode ≠ .idle := by simp [hm]
  have hbytes := (s.frame f).length_bytes_one (chunkLen_le_seven s.seq.total.toNat s.seq.done.toNat)
  dsimp only
  split
  next h =>
    refine .stopped_memWrite h fun hs => ?_
    rw [hbytes]
    exact hs.seq.inBuf_chunk (hs.seq.blk hm).done_le (hs.seq.blk hm).total_le
  next u h =>
    refine .returned_transfer (segmentCode_ne_faulted _) (.single (.of_memWrite h hbytes (List.mem_singleton_self _)))
      (State.memWrite_seq h) rfl hi hi rfl fun hc hq => ?_
    refine .of_blk hm ((hq.blk hm).nextSegment hc hb (by omega) fun hends => ?_)
    simp only [Bool.or_eq_false_iff, beq_eq_false_iff_ne] at hends
    exact ⟨fun e => hends.1.2 (BitVec.eq_of_toNat_eq e), hends.2⟩

theorem execSqback_ends : Ends ((Instr.sqback a b).footprint s) s (execSqback a b s) := by
  refine .unless_raised fun hmode => .unless_raised fun _ => .unless_raised fun hnb =>
    .unless_refused nofun fun _ => ?_
  have hm : s.seq.mode = .blk := not_not.mp hmode
  have hi : s.seq.mode ≠ .idle := by simp [hm]
  refine .ite (fun hlast => ?_) fun hlast => ?_
  · refine .returned_transfer nofun .refl rfl rfl hi nofun rfl fun _ hq => ?_
    obtain ⟨-, -, -, hsent, hrcvd, -⟩ := (hq.blk hm).no_round
    exact .of_complete rfl ⟨(hq.blk hm).total_le, hlast, hsent, hrcvd⟩
  · refine .returned_transfer nofun .refl rfl rfl hi hi rfl fun _ hq => ?_
    have hle := (hq.blk hm).ackedDone_le (s.dreg a).toNat
    exact .of_blk hm ((hq.blk hm).nextBlock (lt_of_le_of_ne hle fun e => hlast (BitVec.eq_of_toNat_eq e)) hnb)

theorem execSqrel_ends : Ends (Instr.sqrel.footprint s) s (execSqrel s) := by
  refine .unless_refused nofun fun hi => ?_
  have hfoot : Instr.sqrel.footprint s = { seq := true, slots := [s.seq.slot], bytes := s.relRange } := if_neg hi
  rw [hfoot]
  refine .ite (fun hrx => ?_) fun _ => .returned_one nofun (.release rfl (List.mem_singleton_self _))
  split
  next h => exact .stopped_scrub h fun hs => hs.seq.slot
  next u h =>
    obtain ⟨-, rfl⟩ := State.scrub_eq_some.mp h
    exact .returned_two nofun (.scrub (by simp [State.relRange, hrx])) (.release rfl (List.mem_singleton_self _))

/-! ### The reassembly buffer (spec/43_reassembly.md) -/

theorem execRaopen_ends : Ends ((Instr.raopen sl a b c).footprint s) s (execRaopen sl a b c s) :=
  .unless_raised fun hsl => .unless_raised fun _ => .unless_raised fun hmode =>
    .unless_raised fun hf => .unless_refused nofun fun hsize => .unless_refused nofun fun hkey =>
      .returned_one nofun (.opens (List.mem_singleton_self sl) (Nat.lt_of_not_le hsl) (not_not.mp hf) rfl
        (Bool.eq_false_iff.mpr hkey) fun hc => Slot.sessionOk_fresh hc hmode hsize)

theorem Slot.keyed_of_ne {r : Slot} (hf : r.state ≠ .free) (hs : r.state ≠ .seq) : r.keyed = true := by
  rw [Slot.keyed_iff]
  cases h : r.state with
  | free => exact absurd h hf
  | opened => exact .inl rfl
  | done => exact .inr rfl
  | seq => exact absurd h hs

theorem execRaclose_ends : Ends ((Instr.raclose sl).footprint s) s (execRaclose sl s) := by
  refine .unless_raised fun hsl => .unless_refused nofun fun hfree => .unless_raised fun hseq => ?_
  have hk : (s.slot sl).keyed = true := Slot.keyed_of_ne hfree hseq
  refine .ite (fun hr => ?_) fun _ => .returned_one nofun (.closes (List.mem_singleton_self sl) hk)
  split
  next h => exact .stopped_scrub h fun _ => Nat.lt_of_not_le hsl
  next u h =>
    obtain ⟨-, rfl⟩ := State.scrub_eq_some.mp h
    exact .returned_two nofun (.scrub (by simp [Instr.footprint, State.closeRange, hr]))
      (.closes (List.mem_singleton_self sl) hk)

theorem execRafind_ends : Ends ((Instr.rafind a b c).footprint s) s (execRafind a b c s) := by
  unfold execRafind
  split
  · exact .returned_one nofun (.dreg (List.mem_singleton_self a))
  · exact .returned_one nofun (.dreg (List.mem_singleton_self a))
  · exact .returned_one nofun (.dreg (List.mem_singleton_self a))

theorem execRacts_ends : Ends ((Instr.racts sl a b).footprint s) s (execRacts sl a b s) := by
  refine .unless_raised fun hsl => .unless_raised fun hst => ?_
  obtain ⟨ho, hm⟩ : (s.slot sl).state = .opened ∧ (s.slot sl).mode = .rxRts := by simpa using hst
  have hk : (s.slot sl).keyed = true := (Slot.keyed_iff _).mpr (.inl ho)
  exact .returned_two nofun
    (.session (r := (s.slot sl).afterGrant ((s.dreg b).extractLsb' 0 8)) (List.mem_singleton_self sl)
      (Nat.lt_of_not_le hsl) hk hk rfl fun _ h => h.afterGrant hm _)
    (.dreg (List.mem_singleton_self a))

theorem execRactstx_ends : Ends ((Instr.ractstx sl a b).footprint s) s (execRactstx sl a b s) := by
  refine .unless_raised fun hsl => .unless_raised fun hst => ?_
  obtain ⟨hm, hk⟩ : (s.slot sl).mode = .txRts ∧ (s.slot sl).keyed = true := by simpa using hst
  refine .ite (fun _ => ?_) fun hcnt => .unless_refused nofun fun hok => ?_
  · exact .returned_one nofun (.session (List.mem_singleton_self sl) (Nat.lt_of_not_le hsl) hk hk rfl fun _ h => h.hold hm)
  · have hsession : Update ((Instr.ractstx sl a b).footprint s) s
        (s.setSlot sl ((s.slot sl).afterCts (s.dreg b).toNat (s.dreg a).toNat)) :=
      .session (List.mem_singleton_self sl) (Nat.lt_of_not_le hsl) hk rfl rfl fun hc h => h.afterCts hc hm hcnt hok
    cases hp : (s.slot sl).proto with
    | tp => exact .returned_one nofun (by simpa [Slot.afterCts, hp] using hsession)
    | etp => exact .returned_one nofun (by simpa [Slot.afterCts, hp] using hsession)

theorem execRadpo_ends : Ends ((Instr.radpo sl a b).footprint s) s (execRadpo sl a b s) := by
  refine .unless_raised fun hsl => .unless_raised fun hst => .unless_refused nofun fun hok => ?_
  obtain ⟨ho, hm, hp⟩ : (s.slot sl).state = .opened ∧ (s.slot sl).mode = .rxRts ∧ (s.slot sl).proto = .etp := by
    simpa using hst
  have hk : (s.slot sl).keyed = true := (Slot.keyed_iff _).mpr (.inl ho)
  exact .returned_one nofun (.session (List.mem_singleton_self sl) (Nat.lt_of_not_le hsl) hk hk rfl fun _ h =>
    h.afterDpo hm hp hok)

variable {s sl} in
/-- The next packet of a session moves its record on (R275, R281). -/
theorem Update.of_advance {p : Footprint} {r : Slot} {k : Bool} (hs : sl ∈ p.slots) (hsl : sl.toNat < s.cfg.nslot)
    (hr : s.slot sl = r) (ho : r.state = .opened) (hf : r.SessionOk s.cfg → r.NextFits)
    (hk : k = true → r.mode ≠ .txRts) : Update p s (s.setSlot sl (r.advance r.next.toNat k).1) := by
  subst hr
  have ha := (s.slot sl).advance_advanced (s.slot sl).next.toNat k
  exact .session hs hsl ((Slot.keyed_iff _).mpr (.inl ho)) (ha.keyed ho) ha.key_eq fun hc h => h.advanced hc ha (hf h) hk

theorem execRadt_ends : Ends ((Instr.radt sl f).footprint s) s (execRadt sl f s) := by
  refine .unless_raised fun hsl => .unless_raised fun hr => .unless_refused nofun fun _ =>
    .unless_refused nofun fun _ => .unless_refused nofun fun _ => .unless_refused nofun fun hpast =>
      .unless_refused nofun fun hdup => .unless_refused nofun fun hgap => ?_
  have hnext : (s.slot sl).rxPacket (s.frame f).data[0] = (s.slot sl).next.toNat := by omega
  have hr' : (s.slot sl).receiving = true := by simpa using hr
  obtain ⟨ho, hmode⟩ := (s.slot sl).receiving_iff.mp hr'
  have hk : (s.slot sl).keyed = true := (Slot.keyed_iff _).mpr (.inl ho)
  rw [hnext] at hpast ⊢
  have hlt := Nat.lt_of_not_le hsl
  have hbytes := (s.frame f).length_bytes_one (n := (s.packetRange sl).n) (chunkLen_le_seven _ _)
  dsimp only
  split
  next h =>
    refine .stopped_memWrite h fun hs => ⟨hlt, le_of_eq_of_le (congrArg _ hbytes) ?_⟩
    exact ((hs.slots.each sl).session hk).packet_le (((hs.slots.each sl).session hk).next_le_npkt ho)
  next u h =>
    refine .returned_two (ResultCode.ne_faulted_of_success (Slot.advance_success ..))
      (.of_memWrite h hbytes (List.mem_singleton_self (s.packetRange sl))) ?_
    obtain ⟨-, rfl⟩ := State.memWrite_eq_some.mp h
    refine .of_advance (List.mem_singleton_self sl) hlt rfl ho (fun hok => hok.nextFits_of_receiving hr' hpast) fun _ e => ?_
    simp [e] at hmode

theorem execRatx_ends : Ends ((Instr.ratx sl f).footprint s) s (execRatx sl f s) := by
  refine .unless_raised fun hsl => .unless_raised fun hr => .unless_raised fun hg => ?_
  have hr' : (s.slot sl).sending = true := by simpa using hr
  obtain ⟨ho, -⟩ := (s.slot sl).sending_iff.mp hr'
  have hk : (s.slot sl).keyed = true := (Slot.keyed_iff _).mpr (.inl ho)
  have hlt := Nat.lt_of_not_le hsl
  dsimp only
  split
  next h =>
    refine .stopped_memRead h fun hs => ⟨hlt, ?_⟩
    exact ((hs.slots.each sl).session hk).packet_le (((hs.slots.each sl).session hk).next_le_npkt ho)
  next bs h =>
    exact .returned_two (ResultCode.ne_faulted_of_success (Slot.advance_success ..))
      (.of_produced (List.mem_singleton_self f) (frameBytes ((s.slot sl).seqByte (s.slot sl).next.toNat) bs 0xFF))
      (.of_advance (List.mem_singleton_self sl) (by simpa using hlt) (State.setFrame_slot ..) ho
        (fun hok => hok.nextFits_of_sending hr' hg) nofun)

end Commands

/-! ## Every command -/

theorem exec_ends (i : Instr) (s : State) : Ends (i.footprint s) s (exec i s) := by
  cases i with
  | nop => exact execNop_ends ..
  | ldi a imm => exact execLdi_ends ..
  | ldih a imm => exact execLdih_ends ..
  | finit f a fmt len fill => exact execFinit_ends ..
  | fcopy f g => exact execFcopy_ends ..
  | fgetb e a f off w => exact execFgetb_ends ..
  | fputb e f off w a => exact execFputb_ends ..
  | fgetx a f sp pos n => exact execFgetx_ends ..
  | fputx f sp pos n a => exact execFputx_ends ..
  | fclass a f => exact execFclass_ends ..
  | crcclr => exact execCrcclr_ends ..
  | crcf f off n => exact execCrcf_ends ..
  | crcb sl a b => exact execCrcb_ends ..
  | crcrd a => exact execCrcrd_ends ..
  | crcchk a => exact execCrcchk_ends ..
  | brd e a sl b w => exact execBrd_ends ..
  | bwr e sl b w a => exact execBwr_ends ..
  | ftob sl b f fo n => exact execFtob_ends ..
  | btof f fo n sl b => exact execBtof_ends ..
  | sqseg sl a dir role u => exact execSqseg_ends ..
  | sqblk sl a b dir => exact execSqblk_ends ..
  | sqsend f cs => exact execSqsend_ends ..
  | sqrecv f cs => exact execSqrecv_ends ..
  | sqbtx f => exact execSqbtx_ends ..
  | sqbrx f => exact execSqbrx_ends ..
  | sqback a b => exact execSqback_ends ..
  | sqrel => exact execSqrel_ends ..
  | raopen sl a b c => exact execRaopen_ends ..
  | raclose sl => exact execRaclose_ends ..
  | rafind a b c => exact execRafind_ends ..
  | racts sl a b => exact execRacts_ends ..
  | ractstx sl a b => exact execRactstx_ends ..
  | radpo sl a b => exact execRadpo_ends ..
  | radt sl f => exact execRadt_ends ..
  | ratx sl f => exact execRatx_ends ..

/-- Settles O10: a command's updates all lie inside its footprint, and so does what follows from them. -/
theorem commandsKeepOutside : Obligations.CommandsKeepOutside := by
  unfold Obligations.CommandsKeepOutside
  intro i s t _ h
  exact (exec_ends i s).keepsOutside h

end Sys2Proof.Machine
end

section
/-! PROOF. Obligations O52 to O55 and O57 to O59: what a step can do, said once, and from it every invariant of the machine
(spec/10_state.md R35, R38, R48, R54, R55, spec/60_exceptions.md R340, R341, R344, spec/70_reset_and_hazards.md R380). -/

namespace Sys2Proof.Machine

/-! ## What a step can do -/

/-- The state with the host's side of the window replaced. -/
def State.withBus (s : State) (b : HostBus) : State := { s with bus := b }

/-- The ways a step can end at s; b is the host's side once the access is taken off it. -/
inductive StepEnds (s : State) : Result → Prop
  /-- Nothing but the host's side changes: no access, a read, or a write that is ignored. -/
  | quiet {b : HostBus} : StepEnds s (.next (s.withBus b))
  /-- A soft or hardware reset (R380, R381). -/
  | reset {b : HostBus} : StepEnds s (.next (s.withBus b).softReset)
  /-- A host write of a data register, a frame register or the CRC. -/
  | wrote {b : HostBus} {p : Footprint} {t : State} (h : Update p (s.withBus b) t) : StepEnds s (.next t)
  /-- A write of CMD while the CFU is not faulted (R340). -/
  | ran {b : HostBus} {p : Footprint} {r : Result} (hf : s.status.flt = false) (h : Ends p (s.withBus b) r) : StepEnds s r

theorem runCommand_ends (w : Word) (s : State) (b : HostBus) : StepEnds s (runCommand w (s.withBus b)) := by
  unfold runCommand
  split
  · exact .quiet
  next hf =>
    have hf' : s.status.flt = false := Bool.eq_false_iff.mpr hf
    split
    next i _ => exact .ran hf' (exec_ends i _)
    · exact .ran (p := {}) hf' .raised
    · exact .ran (p := {}) hf' .raised

/-- R36: what a host write leaves in a frame register has a legal identifier. -/
theorem Frame.idLegal_writeId (fr : Frame) (v : Word) : (fr.writeId v).IdLegal := by
  unfold Frame.writeId
  split
  · exact nofun
  · intro _
    rw [BitVec.toNat_setWidth, toNat_field]
    omega

theorem Frame.IdLegal.writeLen {fr : Frame} (h : fr.IdLegal) (v : Word) : (fr.writeLen v).IdLegal := h

theorem Frame.IdLegal.writeData {fr : Frame} (h : fr.IdLegal) (k : Nat) (v : Word) : (fr.writeData k v).IdLegal := h

theorem writeReg_ends (g : HostReg) (v : Word) (s : State) (b : HostBus) : StepEnds s (writeReg g v (s.withBus b)) := by
  have hframe (f : FrameReg) (fr : Frame) (hid : (s.withBus b).FramesOk → fr.IdLegal) :
      StepEnds s (.next ((s.withBus b).setFrame f fr)) :=
    .wrote (p := { frames := [f] }) (.frame (List.mem_singleton_self f) hid)
  cases g with
  | cmd => exact runCommand_ends v s b
  | ctrl =>
    show StepEnds s (.next (if v.getLsbD 0 then (s.withBus b).softReset else s.withBus b))
    split
    · exact .reset
    · exact .quiet
  | crc => exact .wrote (p := { crc := true }) (.crc rfl)
  | d r => exact .wrote (p := { dregs := [r] }) (.dreg (List.mem_singleton_self r))
  | fId f => exact hframe f _ fun _ => Frame.idLegal_writeId _ _
  | fLen f => exact hframe f _ fun h => Frame.IdLegal.writeLen (h.std_id f) v
  | fDhi f => exact hframe f _ fun h => Frame.IdLegal.writeData (h.std_id f) 0 v
  | fDlo f => exact hframe f _ fun h => Frame.IdLegal.writeData (h.std_id f) 4 v
  | _ => exact .quiet

theorem step_ends (s : State) : StepEnds s (step s) := by
  unfold step stepOnce
  split
  · exact .quiet (b := s.bus)
  next x rest _ =>
    cases x with
    | read off => exact .quiet
    | hardReset => exact .reset (b := { s.bus with pending := rest })
    | write off v =>
      show StepEnds s (hostWrite off v (s.withBus { s.bus with pending := rest }))
      unfold hostWrite
      split
      next g _ => exact writeReg_ends g v s _
      · exact .quiet

/-! ## Invariants of a step -/

/-- A predicate that is no matter of the host's side or of STATUS and that a reset and every kind of update keep. -/
structure KeptByUpdates (I : State → Prop) : Prop where
  bus : ∀ s b, I s → I (s.withBus b)
  status : ∀ (s : State) u, I s → I { s with status := u }
  reset : ∀ s, I s → I s.softReset
  update : ∀ p s t, Update p s t → I s → I t

/-- What a reset and every kind of update keep, every end of a step keeps. -/
theorem StepEnds.keeps {I : State → Prop} {s t : State} {r : Result} (h : StepEnds s r) (hr : r = .next t)
    (hI : KeptByUpdates I) (hs : I s) : I t := by
  cases h with
  | quiet =>
    cases hr
    exact hI.bus _ _ hs
  | reset =>
    cases hr
    exact hI.reset _ (hI.bus _ _ hs)
  | wrote hu =>
    cases hr
    exact hI.update _ _ _ hu (hI.bus _ _ hs)
  | ran _ hc =>
    cases hc with
    | returned _ hu =>
      obtain rfl := complete_eq_next.mp hr
      exact hI.status _ _ (hu.keep (hI.update _) (hI.bus _ _ hs))
    | raised =>
      obtain rfl := raiseFault_eq_next.mp hr
      exact hI.status _ _ (hI.bus _ _ hs)
    | stopped => cases hr

theorem KeptByUpdates.step {I : State → Prop} (hI : KeptByUpdates I) {s t : State} (hs : I s) (h : step s = .next t) :
    I t :=
  (step_ends s).keeps h hI hs

theorem keptByUpdates_framesOk : KeptByUpdates State.FramesOk where
  bus _ _ h := ⟨h.std_id⟩
  status _ _ h := ⟨h.std_id⟩
  reset s _ := ⟨fun f _ => by simp [Frame.reset]⟩
  update _ _ _ hu h := hu.framesOk h

theorem keptByUpdates_memOk : KeptByUpdates State.MemOk where
  bus _ _ h := ⟨h.canonical, h.inside⟩
  status _ _ h := ⟨h.canonical, h.inside⟩
  reset s _ := ⟨fun x => by rw [State.softReset_buf]; rfl, fun x c hc => by simp at hc⟩
  update _ _ _ hu h := hu.memOk h

theorem keptByUpdates_bindOk : KeptByUpdates State.BindOk where
  bus _ _ h := ⟨h.bound, h.only, h.idle⟩
  status _ _ h := ⟨h.bound, h.only, h.idle⟩
  reset s _ := ⟨fun h => absurd rfl h, fun x h => by simp [Slot.free] at h, fun _ => rfl⟩
  update _ _ _ hu h := hu.bindOk h

theorem keptByUpdates_slotsOk : KeptByUpdates State.SlotsOk where
  bus _ _ h := ⟨h.cfg, h.each, h.absent⟩
  status _ _ h := ⟨h.cfg, h.each, h.absent⟩
  reset s h := ⟨h.cfg, fun x => s.softReset_slot x ▸ Slot.ok_free _, fun x _ => s.softReset_slot x⟩
  update _ _ _ hu h := hu.slotsOk h

/-- That every session's record is legal goes into the step lemma of R257: a key held by a slot at NSLOT or above would not
be seen by RAOPEN. -/
theorem keptByUpdates_keysOk : KeptByUpdates fun s => s.SlotsOk ∧ s.KeysOk where
  bus _ _ := fun ⟨hs, hk⟩ => ⟨⟨hs.cfg, hs.each, hs.absent⟩, ⟨hk.distinct⟩⟩
  status _ _ := fun ⟨hs, hk⟩ => ⟨⟨hs.cfg, hs.each, hs.absent⟩, ⟨hk.distinct⟩⟩
  reset s h := ⟨keptByUpdates_slotsOk.reset s h.1, ⟨fun x _ _ hx => by simp [Slot.free, Slot.keyed] at hx⟩⟩
  update _ _ _ hu := fun ⟨hs, hk⟩ => ⟨hu.slotsOk hs, hu.keysOk hs hk⟩

theorem keptByUpdates_seqOk : KeptByUpdates fun s => s.cfg.wf ∧ s.SeqOk where
  bus _ _ := fun ⟨hc, h⟩ => ⟨hc, h.slot, h.seg, h.blk, h.complete⟩
  status _ _ := fun ⟨hc, h⟩ => ⟨hc, h.slot, h.seg, h.blk, h.complete⟩
  reset s := fun ⟨hc, _⟩ => ⟨hc, s.softReset.seqOk_iff.mpr ⟨hc.1, Sequencer.legal_idle _⟩⟩
  update _ _ _ hu := fun ⟨hc, h⟩ => ⟨hu.keepsOutside.cfg ▸ hc, hu.seqOk hc h⟩

/-! ## STATUS -/

theorem ResultCode.code_ne_of_ne_faulted {c : ResultCode} : c ≠ .faulted → c.code ≠ 0xFF := by
  cases c <;> decide

/-- A command that returns leaves a listed code other than 0xFF and keeps FLT and CAUSE (R346). -/
theorem State.StatusOk.completed {s : State} (h : s.StatusOk) (hf : s.status.flt = false) {op : BitVec 6} {c : ResultCode}
    (hc : c ≠ .faulted) : (s.completed op c).StatusOk where
  known_rc := ⟨c, rfl⟩
  ready _ := ⟨(h.ready hf).1, ResultCode.code_ne_of_ne_faulted hc⟩
  faulted hf' := by simp [hf] at hf'

theorem State.statusOk_takeFault (s : State) (op : BitVec 6) (c : FaultCause) : (s.takeFault op c).StatusOk :=
  ⟨⟨.faulted, rfl⟩, nofun, fun _ => ⟨rfl, c, rfl⟩⟩

theorem State.StatusOk.congr {s t : State} (h : s.StatusOk) (e : t.status = s.status) : t.StatusOk where
  known_rc := e ▸ h.known_rc
  ready := e ▸ h.ready
  faulted := e ▸ h.faulted

theorem StepEnds.statusOk {s t : State} {r : Result} (h : StepEnds s r) (hr : r = .next t) (hs : s.StatusOk) :
    t.StatusOk := by
  cases h with
  | quiet =>
    cases hr
    exact hs.congr rfl
  | reset =>
    cases hr
    exact ⟨⟨.ok, rfl⟩, fun _ => (by decide : Status.reset.cause = 0 ∧ Status.reset.rc ≠ 0xFF), nofun⟩
  | wrote hu =>
    cases hr
    exact hs.congr hu.status_eq
  | ran hf hc =>
    cases hc with
    | returned hcode hu =>
      obtain rfl := complete_eq_next.mp hr
      exact (hs.congr hu.status_eq).completed (hu.status_eq ▸ hf) hcode
    | raised =>
      obtain rfl := raiseFault_eq_next.mp hr
      exact State.statusOk_takeFault _ _ _
    | stopped => cases hr

/-! ## The obligations -/

/-- Settles O52: FINIT, FPUTX and the write of Fn_ID are the updates that could break it. -/
theorem frameIdsStayLegal : Obligations.FrameIdsStayLegal := fun _ _ => keptByUpdates_framesOk.step

/-- Settles O53: no command returns 0xFF, and none runs while FLT is 1. -/
theorem statusStaysLegal : Obligations.StatusStaysLegal := fun s _ hs h => (step_ends s).statusOk h hs

/-- Settles O54: stores and scrubs keep the form and the bounds of a slot's bytes. -/
theorem memoryStaysCanonical : Obligations.MemoryStaysCanonical := fun _ _ => keptByUpdates_memOk.step

/-- Settles O55: only the start and the end of a transfer touch the link. -/
theorem sequencerStaysBound : Obligations.SequencerStaysBound := fun _ _ => keptByUpdates_bindOk.step

/-- Settles O57: each update of a slot's record is a start, an end or a legal change of a session, or SEQ's. -/
theorem sessionsStayLegal : Obligations.SessionsStayLegal := fun _ _ => keptByUpdates_slotsOk.step

/-- Settles O58: each update of SEQ is a start, an end or a legal move of a transfer. -/
theorem sequencerStaysLegal : Obligations.SequencerStaysLegal := fun _ _ hc hs h =>
  (keptByUpdates_seqOk.step ⟨hc, hs⟩ h).2

/-- A step from a state of the invariant has a next state: the model's stop lies outside the invariant. -/
theorem StepEnds.exists_next {s : State} {r : Result} (h : StepEnds s r) (hs : s.Inv) : ∃ t, r = .next t := by
  cases h with
  | quiet => exact ⟨_, rfl⟩
  | reset => exact ⟨_, rfl⟩
  | wrote => exact ⟨_, rfl⟩
  | @ran b _ _ _ hc =>
    cases hc with
    | returned => exact ⟨_, rfl⟩
    | raised => exact ⟨_, rfl⟩
    | stopped hstop =>
      refine absurd ?_ hstop
      exact ⟨keptByUpdates_framesOk.bus s b hs.frames, hs.status.congr rfl, keptByUpdates_memOk.bus s b hs.mem,
        keptByUpdates_bindOk.bus s b hs.bind, (keptByUpdates_keysOk.bus s b ⟨hs.slots, hs.keys⟩).2,
        keptByUpdates_slotsOk.bus s b hs.slots, (keptByUpdates_seqOk.bus s b ⟨hs.slots.cfg, hs.seq⟩).2⟩

/-- Settles O59: no step stops inside the invariant, and each part of the invariant is kept. -/
theorem stepsGoOn : Obligations.StepsGoOn := by
  unfold Obligations.StepsGoOn
  intro s hs
  obtain ⟨t, ht⟩ := (step_ends s).exists_next hs
  exact ⟨t, ht, {
    frames := frameIdsStayLegal s t hs.frames ht
    status := statusStaysLegal s t hs.status ht
    mem := memoryStaysCanonical s t hs.mem ht
    bind := sequencerStaysBound s t hs.bind ht
    keys := (keptByUpdates_keysOk.step ⟨hs.slots, hs.keys⟩ ht).2
    slots := sessionsStayLegal s t hs.slots ht
    seq := sequencerStaysLegal s t hs.slots.cfg hs.seq ht }⟩

end Sys2Proof.Machine
end

section
/-! PROOF. Obligations O13 to O16: the register at each offset of the window, the value of each register word as a sum of its
fields, and what a host write does (spec/10_state.md R31 to R53, spec/20_memory.md R81, spec/70_reset_and_hazards.md R380,
R381). -/

namespace Sys2Proof.Machine

/-! ## The register at an offset -/

section Offsets
variable (c : Config) {off : BitVec 12}

/-- The registers that have no number of their own in the window: D, and the slot groups. -/
theorem regAt_of_index {k : Nat} (hk : off.toNat / 4 = k) (h : (8 ≤ k ∧ k < 16) ∨ 64 ≤ k) :
    regAt c off =
      if 8 ≤ k ∧ k < 16 then some (.d (BitVec.ofNat 3 (k - 8)))
      else if 64 ≤ k ∧ k < 64 + 8 * min c.nslot 8 then
        some (.slot (BitVec.ofNat 3 ((k - 64) / 8)) (slotRegAt ((k - 64) % 8)))
      else none := by
  unfold regAt
  rw [wordIndex_toNat, hk]
  dsimp only
  generalize (if 8 ≤ k ∧ k < 16 then _ else _) = r
  split
  case h_18 => rfl
  all_goals omega

theorem regAt_d (r : DReg) (h : off.toNat / 4 * 4 = 0x020 + 4 * r.toNat) : regAt c off = some (.d r) := by
  have hr := r.isLt
  rw [regAt_of_index c (k := 8 + r.toNat) (by omega) (by omega), if_pos (by omega), Nat.add_sub_cancel_left,
    BitVec.ofNat_toNat, BitVec.setWidth_eq]

theorem regAt_fId (f : FrameReg) (h : off.toNat / 4 * 4 = 0x040 + 16 * f.bit.toNat) : regAt c off = some (.fId f) := by
  cases f with
  | f0 => exact regAt_of_same_word c (o := 0x040) h
  | f1 => exact regAt_of_same_word c (o := 0x050) h

theorem regAt_fLen (f : FrameReg) (h : off.toNat / 4 * 4 = 0x044 + 16 * f.bit.toNat) : regAt c off = some (.fLen f) := by
  cases f with
  | f0 => exact regAt_of_same_word c (o := 0x044) h
  | f1 => exact regAt_of_same_word c (o := 0x054) h

theorem regAt_fDhi (f : FrameReg) (h : off.toNat / 4 * 4 = 0x048 + 16 * f.bit.toNat) : regAt c off = some (.fDhi f) := by
  cases f with
  | f0 => exact regAt_of_same_word c (o := 0x048) h
  | f1 => exact regAt_of_same_word c (o := 0x058) h

theorem regAt_fDlo (f : FrameReg) (h : off.toNat / 4 * 4 = 0x04C + 16 * f.bit.toNat) : regAt c off = some (.fDlo f) := by
  cases f with
  | f0 => exact regAt_of_same_word c (o := 0x04C) h
  | f1 => exact regAt_of_same_word c (o := 0x05C) h

/-- Register k of the group of a slot that exists (R53). -/
theorem regAt_slot (hc : c.wf) (x : SlotNo) (hx : x.toNat < c.nslot) (k : Nat) (hk : k < 8)
    (h : off.toNat / 4 * 4 = 0x100 + 0x20 * x.toNat + 4 * k) : regAt c off = some (.slot x (slotRegAt k)) := by
  obtain ⟨-, hn, -, -⟩ := hc
  have hslot : (64 + 8 * x.toNat + k - 64) / 8 = x.toNat := by omega
  have hreg : (64 + 8 * x.toNat + k - 64) % 8 = k := by omega
  rw [regAt_of_index c (k := 64 + 8 * x.toNat + k) (by omega) (by omega), if_neg (by omega), if_pos (by omega), hslot, hreg,
    BitVec.ofNat_toNat, BitVec.setWidth_eq]

/-- From 0x100 on there are slot groups only. -/
theorem regAt_of_le (h : 0x100 ≤ off.toNat / 4 * 4) : regAt c off = none ∨ ∃ x k, regAt c off = some (.slot x k) := by
  rw [regAt_of_index c rfl (by omega), if_neg (by omega)]
  split
  · exact .inr ⟨_, _, rfl⟩
  · exact .inl rfl

end Offsets

theorem State.hostRead_of_regAt {s : State} {off : BitVec 12} {g : HostReg} (h : regAt s.cfg off = some g) :
    s.hostRead off = s.regWord g := by
  simp only [State.hostRead, h]

theorem hostWrite_of_regAt {s : State} {off : BitVec 12} {g : HostReg} (h : regAt s.cfg off = some g) (v : Word) :
    hostWrite off v s = writeReg g v s := by
  simp only [hostWrite, h]

theorem hostWrite_of_unmapped {s : State} {off : BitVec 12} (h : regAt s.cfg off = none) (v : Word) :
    hostWrite off v s = .next s := by
  simp only [hostWrite, h]

/-! ## The value of each register word -/

theorem flagBit_toNat (b : Bool) : (flagBit b).toNat = b.toNat := by cases b <;> rfl

theorem Config.idWord_toNat (c : Config) : (Config.idWord c).toNat = c.nslot % 256 + 256 * (c.rabCap % 2 ^ 24) := by
  unfold Config.idWord
  rw [toNat_append_sum, BitVec.toNat_ofNat, BitVec.toNat_ofNat]
  omega

theorem Status.word_toNat (t : Status) : t.word.toNat =
    t.rc.toNat + 2 ^ 8 * t.flt.toNat + 2 ^ 16 * t.cause.toNat + 2 ^ 24 * t.lastop.toNat := by
  unfold Status.word
  refine (toNat_append_sum _ _).trans ?_
  simp only [toNat_append_sum, BitVec.toNat_ofNat, BitVec.toNat_ofBool]
  omega

theorem Frame.idWord_toNat (fr : Frame) : fr.idWord.toNat = 2 ^ 31 * fr.ext.bit.toNat + fr.id.toNat := by
  unfold Frame.idWord
  refine (toNat_append_sum _ _).trans ?_
  simp only [toNat_append_sum, BitVec.toNat_ofNat]
  omega

theorem Frame.lenWord_toNat (fr : Frame) : fr.lenWord.toNat = fr.len.val := by
  have hlen := fr.len.isLt
  unfold Frame.lenWord
  rw [BitVec.toNat_ofNat]
  omega

/-- BE of four bytes, written out. -/
theorem beSum_four (b : Nat → Byte) :
    beSum b 4 = (b 0).toNat * 2 ^ 24 + (b 1).toNat * 2 ^ 16 + (b 2).toNat * 2 ^ 8 + (b 3).toNat := by
  simp [beSum, Finset.sum_range_succ]

theorem Frame.dhiWord_toNat (fr : Frame) : fr.dhiWord.toNat = beSum fr.byte 4 := by
  rw [beSum_four]
  simp only [Frame.byte_of_lt, Nat.reduceLT]
  unfold Frame.dhiWord
  refine (toNat_append_sum _ _).trans ?_
  simp only [toNat_append_sum]
  omega

theorem Frame.dloWord_toNat (fr : Frame) : fr.dloWord.toNat = beSum (fun k => fr.byte (4 + k)) 4 := by
  rw [beSum_four]
  simp only [Frame.byte_of_lt, Nat.reduceLT, Nat.reduceAdd]
  unfold Frame.dloWord
  refine (toNat_append_sum _ _).trans ?_
  simp only [toNat_append_sum]
  omega

theorem Sequencer.ctlWord_toNat (q : Sequencer) : q.ctlWord.toNat =
    q.mode.bits.toNat + 2 ^ 2 * q.dir.bit.toNat + 2 ^ 3 * q.role.bit.toNat + 2 ^ 4 * q.unk.toNat + 2 ^ 5 * q.tog.toNat +
      2 ^ 6 * q.sent.toNat + 2 ^ 7 * q.rcvd.toNat + 2 ^ 8 * q.fin.toNat + 2 ^ 9 * q.bend.toNat + 2 ^ 10 * q.slot.toNat +
      2 ^ 13 * q.lastn.toNat + 2 ^ 16 * q.seqno.toNat + 2 ^ 24 * q.blksize.toNat := by
  unfold Sequencer.ctlWord
  refine (toNat_append_sum _ _).trans ?_
  simp only [toNat_append_sum, flagBit_toNat, BitVec.toNat_ofNat]
  omega

theorem Slot.ctlWord_toNat (r : Slot) : (r.regWord .ctl).toNat =
    r.state.bits.toNat + 2 ^ 2 * r.mode.bits.toNat + 2 ^ 4 * r.proto.bit.toNat + 2 ^ 5 * r.dpok.toNat + 2 ^ 8 * r.sa.toNat +
      2 ^ 16 * r.da.toNat := by
  unfold Slot.regWord
  refine (toNat_append_sum _ _).trans ?_
  simp only [toNat_append_sum, flagBit_toNat, BitVec.toNat_ofNat]
  omega

theorem Slot.winWord_toNat (r : Slot) : (r.regWord .win).toNat = r.wcount.toNat + 2 ^ 8 * r.wrecv.toNat := by
  unfold Slot.regWord
  refine (toNat_append_sum _ _).trans ?_
  simp only [toNat_append_sum, BitVec.toNat_ofNat]
  omega

/-- The registers of one 24-bit field. -/
theorem toNat_zero_append_24 (x : BitVec 24) : (0#8 ++ x : Word).toNat = x.toNat := by
  rw [toNat_append_sum, BitVec.toNat_ofNat]
  omega

/-! ## What a write of a frame register does -/

section FrameWrites
variable (fr : Frame) (v : Word)

theorem Frame.writeId_ext : (fr.writeId v).ext = if v.getLsbD 31 then .ext else .std := by
  unfold Frame.writeId
  split <;> rfl

theorem Frame.writeId_id : (fr.writeId v).id.toNat = if v.getLsbD 31 then v.toNat % 2 ^ 29 else v.toNat % 2 ^ 11 := by
  unfold Frame.writeId
  split
  · rw [toNat_field, Nat.pow_zero, Nat.div_one]
  · rw [BitVec.toNat_setWidth, toNat_field]
    omega

theorem Frame.writeId_len : (fr.writeId v).len = fr.len := by
  unfold Frame.writeId
  split <;> rfl

theorem Frame.writeId_byte (j : Nat) : (fr.writeId v).byte j = fr.byte j := by
  unfold Frame.writeId
  split <;> rfl

theorem Frame.writeLen_len : (fr.writeLen v).len.val = min (v.toNat % 16) 8 := by
  show min (v.extractLsb' 0 4).toNat 8 % 9 = min (v.toNat % 16) 8
  rw [toNat_field]
  omega

@[simp] theorem Frame.writeLen_id : (fr.writeLen v).id = fr.id := rfl
@[simp] theorem Frame.writeLen_ext : (fr.writeLen v).ext = fr.ext := rfl
@[simp] theorem Frame.writeLen_byte (j : Nat) : (fr.writeLen v).byte j = fr.byte j := rfl
@[simp] theorem Frame.writeData_id (k : Nat) : (fr.writeData k v).id = fr.id := rfl
@[simp] theorem Frame.writeData_ext (k : Nat) : (fr.writeData k v).ext = fr.ext := rfl
@[simp] theorem Frame.writeData_len (k : Nat) : (fr.writeData k v).len = fr.len := rfl

theorem Frame.writeData_byte_other {k j : Nat} (hj : j < 8) (h : j < k ∨ k + 4 ≤ j) :
    (fr.writeData k v).byte j = fr.byte j := by
  unfold Frame.writeData
  rw [Frame.byte_setBytes _ _ _ _ hj, if_neg]
  simp only [List.length_cons, List.length_nil]
  omega

theorem Frame.writeData_byte {k j : Nat} (hk : k ≤ 4) (hj : j < 4) :
    (fr.writeData k v).byte (k + j) = v.extractLsb' (24 - 8 * j) 8 := by
  unfold Frame.writeData
  rw [Frame.byte_setBytes _ _ _ _ (by omega), if_pos ⟨Nat.le_add_right _ _, Nat.add_lt_add_left hj k⟩,
    Nat.add_sub_cancel_left]
  obtain rfl | rfl | rfl | rfl : j = 0 ∨ j = 1 ∨ j = 2 ∨ j = 3 := by omega
  all_goals rfl

/-- The four bytes a write of Fn_DHI or Fn_DLO sets have the word's value, first byte most significant (R39). -/
theorem Frame.beSum_writeData {k : Nat} (hk : k ≤ 4) : beSum (fun j => (fr.writeData k v).byte (k + j)) 4 = v.toNat := by
  have hv := v.isLt
  have hbyte (j : Nat) (hj : j < 4) : ((fr.writeData k v).byte (k + j)).toNat = v.toNat / 2 ^ (24 - 8 * j) % 2 ^ 8 := by
    rw [fr.writeData_byte v hk hj, toNat_field]
  rw [beSum_four, hbyte 0 (by decide), hbyte 1 (by decide), hbyte 2 (by decide), hbyte 3 (by decide)]
  omega

end FrameWrites

/-! ## The obligations -/

/-- Settles O13: each register's word at its offset. -/
theorem hostReadsRegisters : Obligations.HostReadsRegisters := by
  unfold Obligations.HostReadsRegisters
  intro s
  refine ⟨fun off h => ?_, fun off h => ?_, fun off h => ?_, fun off h => ?_, fun off r h => ?_, fun off f h => ?_,
    fun off f h => ?_, fun off f h => ?_, fun off f h => ?_⟩
  · rw [s.hostRead_of_same_word (o := 0x000) h]
    exact Config.idWord_toNat s.cfg
  · obtain h | h := h
    · exact s.hostRead_of_same_word (o := 0x004) h
    · exact s.hostRead_of_same_word (o := 0x00C) h
  · rw [s.hostRead_of_same_word (o := 0x008) h]
    exact s.status.word_toNat
  · rw [s.hostRead_of_same_word (o := 0x010) h]
    exact BitVec.toNat_setWidth_of_le (by omega)
  · exact State.hostRead_of_regAt (regAt_d s.cfg r h)
  · rw [State.hostRead_of_regAt (regAt_fId s.cfg f h)]
    exact (s.frame f).idWord_toNat
  · rw [State.hostRead_of_regAt (regAt_fLen s.cfg f h)]
    exact (s.frame f).lenWord_toNat
  · rw [State.hostRead_of_regAt (regAt_fDhi s.cfg f h)]
    exact (s.frame f).dhiWord_toNat
  · rw [State.hostRead_of_regAt (regAt_fDlo s.cfg f h)]
    exact (s.frame f).dloWord_toNat

/-- Settles O14: SEQ's words and those of an existing slot's group. -/
theorem hostReadsTransferState : Obligations.HostReadsTransferState := by
  unfold Obligations.HostReadsTransferState
  intro s hc
  refine ⟨fun off h => ?_, fun off h => ?_, fun off h => ?_, fun off h => ?_, fun x off hx => ?_⟩
  · rw [s.hostRead_of_same_word (o := 0x080) h]
    exact s.seq.ctlWord_toNat
  · exact s.hostRead_of_same_word (o := 0x084) h
  · exact s.hostRead_of_same_word (o := 0x088) h
  · exact s.hostRead_of_same_word (o := 0x08C) h
  · have word (k : Nat) (hk : k < 8) (h : off.toNat / 4 * 4 = 0x100 + 0x20 * x.toNat + 4 * k) :
        s.hostRead off = (s.slot x).regWord (slotRegAt k) :=
      State.hostRead_of_regAt (regAt_slot s.cfg hc x hx k hk h)
    refine ⟨fun h => ?_, fun h => ?_, fun h => ?_, fun h => ?_, fun h => ?_, fun h => ?_, fun h => ?_, fun h => ?_⟩
    · rw [word 0 (by decide) h]
      exact (s.slot x).ctlWord_toNat
    · rw [word 1 (by decide) h]
      exact toNat_zero_append_24 _
    · exact word 2 (by decide) h
    · rw [word 3 (by decide) h]
      exact toNat_zero_append_24 _
    · rw [word 4 (by decide) h]
      exact toNat_zero_append_24 _
    · rw [word 5 (by decide) h]
      exact (s.slot x).winWord_toNat
    · rw [word 6 (by decide) h]
      exact toNat_zero_append_24 _
    · rw [word 7 (by decide) h]
      exact toNat_zero_append_24 _

/-- R38, R47, R53: the read-only registers ignore writes. -/
theorem hostWrite_readOnly (s : State) {off : BitVec 12} (v : Word)
    (h : off.toNat / 4 * 4 = 0x000 ∨ off.toNat / 4 * 4 = 0x008 ∨
      (0x080 ≤ off.toNat / 4 * 4 ∧ off.toNat / 4 * 4 ≤ 0x08C) ∨ 0x100 ≤ off.toNat / 4 * 4) :
    hostWrite off v s = .next s := by
  obtain h | h | h | h := h
  · exact hostWrite_of_same_word v s (o := 0x000) h
  · exact hostWrite_of_same_word v s (o := 0x008) h
  · obtain h | h | h | h : off.toNat / 4 * 4 = 0x080 ∨ off.toNat / 4 * 4 = 0x084 ∨ off.toNat / 4 * 4 = 0x088 ∨
        off.toNat / 4 * 4 = 0x08C := by omega
    · exact hostWrite_of_same_word v s (o := 0x080) h
    · exact hostWrite_of_same_word v s (o := 0x084) h
    · exact hostWrite_of_same_word v s (o := 0x088) h
    · exact hostWrite_of_same_word v s (o := 0x08C) h
  · obtain hnone | ⟨x, k, hslot⟩ := regAt_of_le s.cfg h
    · exact hostWrite_of_unmapped hnone v
    · exact hostWrite_of_regAt hslot v

/-- Settles O15: each clause is one register's write; the four of a frame register are one case each. -/
theorem hostWritesRegisters : Obligations.HostWritesRegisters := by
  unfold Obligations.HostWritesRegisters
  intro s off v k
  refine ⟨hostWrite_readOnly s v, fun r h => ?_, fun h => ?_, fun f hlo hhi => ?_⟩
  · exact ⟨s.setDreg r v, hostWrite_of_regAt (regAt_d s.cfg r h) v, s.setDreg_dreg_same r v, rfl,
      s.keeps_setDreg r v _ (List.mem_singleton_self r)⟩
  · refine ⟨s.setCrc (v.extractLsb' 0 16), hostWrite_of_same_word v s (o := 0x010) h, ?_, rfl, s.keeps_setCrc _ _ rfl⟩
    rw [State.setCrc_crc, toNat_field, Nat.pow_zero, Nat.div_one]
  · have hk4 : k % 4 = 0 := Nat.mul_mod_left _ _
    have hbit := f.bit.isLt
    have written {fr : Frame} (hw : hostWrite off v s = .next (s.setFrame f fr)) :
        hostWrite off v s = .next (s.setFrame f fr) ∧ (s.setFrame f fr).status = s.status ∧
          s.KeepsOutside (s.setFrame f fr) { frames := [f] } :=
      ⟨hw, State.setFrame_status .., s.keeps_setFrame f fr _ (List.mem_singleton_self f)⟩
    obtain h | h | h | h : k = 0x040 + 16 * f.bit.toNat ∨ k = 0x044 + 16 * f.bit.toNat ∨ k = 0x048 + 16 * f.bit.toNat ∨
        k = 0x04C + 16 * f.bit.toNat := by omega
    · have h16 : k % 16 = 0 := by omega
      obtain ⟨hw, hst, hkeep⟩ := written (hostWrite_of_regAt (regAt_fId s.cfg f h) v)
      refine ⟨_, hw, hst, hkeep, ?_⟩
      simp [h16, Frame.writeId_ext, Frame.writeId_id, Frame.writeId_len, Frame.writeId_byte]
    · have h16 : k % 16 = 4 := by omega
      obtain ⟨hw, hst, hkeep⟩ := written (hostWrite_of_regAt (regAt_fLen s.cfg f h) v)
      refine ⟨_, hw, hst, hkeep, ?_⟩
      simp [h16, Frame.writeLen_len]
    · have h16 : k % 16 = 8 := by omega
      obtain ⟨hw, hst, hkeep⟩ := written (hostWrite_of_regAt (regAt_fDhi s.cfg f h) v)
      have hsum : beSum ((s.frame f).writeData 0 v).byte 4 = v.toNat := by
        simpa using (s.frame f).beSum_writeData v (Nat.zero_le 4)
      have hother (j : Nat) (h4 : 4 ≤ j) (h8 : j < 8) : ((s.frame f).writeData 0 v).byte j = (s.frame f).byte j :=
        (s.frame f).writeData_byte_other v h8 (.inr h4)
      refine ⟨_, hw, hst, hkeep, ?_⟩
      simpa [h16, hsum] using hother
    · have h16 : k % 16 = 12 := by omega
      obtain ⟨hw, hst, hkeep⟩ := written (hostWrite_of_regAt (regAt_fDlo s.cfg f h) v)
      have hsum := (s.frame f).beSum_writeData v (Nat.le_refl 4)
      have hother (j : Nat) (h4 : j < 4) : ((s.frame f).writeData 4 v).byte j = (s.frame f).byte j :=
        (s.frame f).writeData_byte_other v (by omega) (.inl h4)
      refine ⟨_, hw, hst, hkeep, ?_⟩
      simpa [h16, hsum] using hother

/-- Settles O16: both resets leave State.softReset, and CTRL is one word of the window. -/
theorem resetsLeaveResetState : Obligations.ResetsLeaveResetState := by
  unfold Obligations.ResetsLeaveResetState
  intro s off v rest
  have ctrl (h : off.toNat / 4 = 1) : off.toNat / 4 * 4 = (0x004#12).toNat / 4 * 4 := by rw [h]; rfl
  refine ⟨fun h => s.hostRead_of_same_word (ctrl h), fun h hv => ?_, fun h hv => ?_, fun h => ?_⟩
  · rw [hostWrite_of_same_word v s (ctrl h)]
    show Host.Outcome.next (if v.getLsbD 0 then s.softReset else s) = _
    rw [if_pos hv]
    rfl
  · rw [hostWrite_of_same_word v s (ctrl h)]
    show Host.Outcome.next (if v.getLsbD 0 then s.softReset else s) = _
    rw [if_neg (Bool.eq_false_iff.mp hv)]
  · simp only [step, stepOnce, h]
    rfl

end Sys2Proof.Machine
end

section
/-! PROOF. Obligation O11 (spec/20_memory.md R102): two runs of one command that start apart only in the record and the bytes
of a slot the command does not name answer alike and end apart only there. -/

namespace Sys2Proof.Machine

/-! ## Another record and other bytes in one slot -/

/-- s with the record r and the bytes m in slot x: the start of the second run. -/
def State.replaceSlot (s : State) (x : SlotNo) (r : Slot) (m : Memory) : State := (s.setSlot x r).setBuf x m

section Replaced

variable (s : State) (r : Slot) (m : Memory) {x y : SlotNo}

/-! ### What a command reads -/

theorem State.replaceSlot_seq (x : SlotNo) : (s.replaceSlot x r m).seq = s.seq := rfl

theorem State.replaceSlot_slot (hy : y ≠ x) : (s.replaceSlot x r m).slot y = s.slot y :=
  s.setSlot_slot_other x r y hy

theorem State.replaceSlot_buf (hy : y ≠ x) : (s.replaceSlot x r m).buf y = s.buf y :=
  (s.setSlot x r).setBuf_buf_other x m y hy

theorem State.replaceSlot_rxBusy (hy : y ≠ x) : (s.replaceSlot x r m).rxBusy y = s.rxBusy y := by
  unfold State.rxBusy
  rw [s.replaceSlot_slot r m hy, s.replaceSlot_seq]

theorem State.replaceSlot_memRead (hy : y ≠ x) (off n : Nat) :
    (s.replaceSlot x r m).memRead y off n = s.memRead y off n := by
  unfold State.memRead
  rw [s.replaceSlot_buf r m hy]
  rfl

/-! ### What a command writes -/

theorem State.replaceSlot_setFrame (x : SlotNo) (f : FrameReg) (fr : Frame) :
    (s.replaceSlot x r m).setFrame f fr = (s.setFrame f fr).replaceSlot x r m := by
  cases f <;> rfl

theorem State.replaceSlot_setSlot (hy : y ≠ x) (r' : Slot) :
    (s.replaceSlot x r m).setSlot y r' = (s.setSlot y r').replaceSlot x r m := by
  have hne : x.toNat ≠ y.toNat := fun e => hy (BitVec.eq_of_toNat_eq e.symm)
  simp only [State.replaceSlot, State.setBuf, State.setSlot, Vector.set_comm _ _ hne]

theorem State.replaceSlot_setBuf (hy : y ≠ x) (m' : Memory) :
    (s.replaceSlot x r m).setBuf y m' = (s.setBuf y m').replaceSlot x r m := by
  have hne : x.toNat ≠ y.toNat := fun e => hy (BitVec.eq_of_toNat_eq e.symm)
  simp only [State.replaceSlot, State.setBuf, State.setSlot, Vector.set_comm _ _ hne]

theorem State.replaceSlot_memWrite (hy : y ≠ x) (off : Nat) (bs : List Byte) :
    (s.replaceSlot x r m).memWrite y off bs = (s.memWrite y off bs).map (·.replaceSlot x r m) := by
  unfold State.memWrite
  rw [apply_ite (Option.map _), s.replaceSlot_buf r m hy, s.replaceSlot_setBuf r m hy]
  rfl

theorem State.replaceSlot_scrub (hy : y ≠ x) :
    (s.replaceSlot x r m).scrub y = (s.scrub y).map (·.replaceSlot x r m) := by
  unfold State.scrub
  rw [apply_ite (Option.map _), s.replaceSlot_buf r m hy, s.replaceSlot_setBuf r m hy]
  rfl

theorem State.replaceSlot_release (hx : s.seq.slot ≠ x) :
    (s.replaceSlot x r m).release = s.release.replaceSlot x r m := by
  unfold State.release
  rw [s.replaceSlot_seq, s.replaceSlot_setSlot r m hx]
  rfl

end Replaced

/-! ## Runs that answer alike -/

/-- The answer of the run that has r and m in slot x, beside the answer of the run it is compared with. -/
inductive AlikeBut (x : SlotNo) (r : Slot) (m : Memory) : Result → Result → Prop
  | next {t : State} : AlikeBut x r m (.next t) (.next (t.replaceSlot x r m))
  | stopped {f : Fault} : AlikeBut x r m (.fault f) (.fault f)

section Combinators

variable {x y : SlotNo} {r : Slot} {m : Memory} {s t u : State} {op : BitVec 6}

theorem AlikeBut.eq_next {A B : Result} (h : AlikeBut x r m A B) (hA : A = .next t) :
    B = .next (t.replaceSlot x r m) := by
  cases h with
  | next =>
    cases hA
    rfl
  | stopped => cases hA

/-- Both runs complete with one code, after updates that left slot x alone. -/
theorem AlikeBut.completed {c : ResultCode} (h : u = t.replaceSlot x r m) :
    AlikeBut x r m (complete op c t) (complete op c u) := by
  subst h
  exact .next (t := t.completed op c)

theorem AlikeBut.raised {c : FaultCause} :
    AlikeBut x r m (raiseFault op c s) (raiseFault op c (s.replaceSlot x r m)) :=
  .next (t := s.takeFault op c)

/-- A check that has one outcome in both runs. -/
theorem AlikeBut.ite {p : Prop} [Decidable p] {A A' B B' : Result} (hA : AlikeBut x r m A A')
    (hB : AlikeBut x r m B B') : AlikeBut x r m (if p then A else B) (if p then A' else B') := by
  split
  · exact hA
  · exact hB

/-- MemRead of another slot answers the same bytes in both runs. -/
theorem AlikeBut.memRead {off n : Nat} {k k' : List Byte → Result} (hy : y ≠ x)
    (hk : ∀ bs, AlikeBut x r m (k bs) (k' bs)) :
    AlikeBut x r m
      (match s.memRead y off n with | none => .fault .noSuchByte | some bs => k bs)
      (match (s.replaceSlot x r m).memRead y off n with | none => .fault .noSuchByte | some bs => k' bs) := by
  rw [s.replaceSlot_memRead r m hy]
  cases s.memRead y off n with
  | none => exact .stopped
  | some bs => exact hk bs

/-- An update of the bytes of another slot: a MemWrite or a scrub. -/
theorem AlikeBut.stored {o o' : Option State} {k k' : State → Result} : o' = o.map (·.replaceSlot x r m) →
    (∀ u, o = some u → AlikeBut x r m (k u) (k' (u.replaceSlot x r m))) →
    AlikeBut x r m
      (match o with | none => .fault .noSuchByte | some u => k u)
      (match o' with | none => .fault .noSuchByte | some u => k' u) := by
  rintro rfl hk
  cases o with
  | none => exact .stopped
  | some u => exact hk u rfl

theorem endRound_alikeBut : AlikeBut x r m (endRound op s) (endRound op (s.replaceSlot x r m)) :=
  .ite (.completed rfl) (.completed rfl)

theorem sendHalf_alikeBut : AlikeBut x r m (sendHalf s) (sendHalf (s.replaceSlot x r m)) := by
  unfold sendHalf
  rw [s.replaceSlot_seq]
  cases s.seq.role with
  | client => exact .completed rfl
  | server => exact endRound_alikeBut (s := s.setSeq { s.seq with sent := true })

theorem recvHalf_alikeBut : AlikeBut x r m (recvHalf s) (recvHalf (s.replaceSlot x r m)) := by
  unfold recvHalf
  rw [s.replaceSlot_seq]
  cases s.seq.role with
  | client => exact endRound_alikeBut (s := s.setSeq { s.seq with rcvd := true })
  | server => exact .completed rfl

end Combinators

/-! ## The commands without a slot field that touch no slot -/

section Commands

variable (s : State) (x : SlotNo) (r : Slot) (m : Memory)
variable (e : ByteOrder) (sl : SlotNo) (a b : DReg) (f : FrameReg)

theorem execFinit_alikeBut (fmt : IdFormat) (len : BitVec 4) (fill : Byte) :
    AlikeBut x r m (execFinit f a fmt len fill s) (execFinit f a fmt len fill (s.replaceSlot x r m)) :=
  .ite .raised <| .ite .raised <| .completed (s.replaceSlot_setFrame ..)

theorem execFgetb_alikeBut (off : BitVec 3) (w : Nat) :
    AlikeBut x r m (execFgetb e a f off w s) (execFgetb e a f off w (s.replaceSlot x r m)) :=
  .ite .raised <| .completed rfl

theorem execFputb_alikeBut (off : BitVec 3) (w : Nat) :
    AlikeBut x r m (execFputb e f off w a s) (execFputb e f off w a (s.replaceSlot x r m)) :=
  .ite .raised <| .completed (s.replaceSlot_setFrame ..)

theorem execFgetx_alikeBut (sp : Space) (pos : BitVec 6) (n : Nat) :
    AlikeBut x r m (execFgetx a f sp pos n s) (execFgetx a f sp pos n (s.replaceSlot x r m)) :=
  .ite (.completed rfl) .raised

theorem execFputx_alikeBut (sp : Space) (pos : BitVec 6) (n : Nat) :
    AlikeBut x r m (execFputx f sp pos n a s) (execFputx f sp pos n a (s.replaceSlot x r m)) :=
  .ite (.completed (s.replaceSlot_setFrame ..)) .raised

theorem execCrcf_alikeBut (off : BitVec 3) (n : BitVec 4) :
    AlikeBut x r m (execCrcf f off n s) (execCrcf f off n (s.replaceSlot x r m)) :=
  .ite .raised <| .ite .raised <| .completed rfl

theorem execCrcchk_alikeBut : AlikeBut x r m (execCrcchk a s) (execCrcchk a (s.replaceSlot x r m)) :=
  .ite (.completed rfl) (.completed rfl)

theorem execSqback_alikeBut : AlikeBut x r m (execSqback a b s) (execSqback a b (s.replaceSlot x r m)) :=
  .ite .raised <| .ite .raised <| .ite .raised <| .ite (.completed rfl) <| .ite (.completed rfl) (.completed rfl)

/-! ## The sequencer's commands, at a slot that is not SEQ's (spec/42_sequencer.md) -/

section Bound

variable {x} (hx : s.seq.slot ≠ x)
include hx

theorem execSqsend_alikeBut (cs : BitVec 3) :
    AlikeBut x r m (execSqsend f cs s) (execSqsend f cs (s.replaceSlot x r m)) := by
  refine .ite .raised ?_
  rw [s.replaceSlot_seq]
  cases s.seq.dir with
  | tx =>
    refine .memRead hx fun bs => ?_
    dsimp only
    rw [s.replaceSlot_setFrame]
    exact sendHalf_alikeBut
  | rx =>
    dsimp only
    rw [s.replaceSlot_setFrame]
    exact sendHalf_alikeBut

theorem execSqrecv_alikeBut (cs : BitVec 3) :
    AlikeBut x r m (execSqrecv f cs s) (execSqrecv f cs (s.replaceSlot x r m)) := by
  refine .ite .raised <| .ite (.completed rfl) <| .ite (.completed rfl) <| .ite (.completed rfl) ?_
  rw [s.replaceSlot_seq]
  cases s.seq.dir with
  | tx => exact recvHalf_alikeBut
  | rx =>
    exact .ite (.completed rfl) <| .ite (.completed rfl) <| .stored (s.replaceSlot_memWrite r m hx ..) fun u _ =>
      recvHalf_alikeBut

theorem execSqbtx_alikeBut : AlikeBut x r m (execSqbtx f s) (execSqbtx f (s.replaceSlot x r m)) := by
  refine .ite .raised <| .memRead hx fun bs => .completed ?_
  rw [s.replaceSlot_setFrame]
  rfl

theorem execSqbrx_alikeBut : AlikeBut x r m (execSqbrx f s) (execSqbrx f (s.replaceSlot x r m)) :=
  .ite .raised <| .ite (.completed rfl) <| .ite (.completed rfl) <| .ite (.completed rfl) <| .ite (.completed rfl) <|
    .stored (s.replaceSlot_memWrite r m hx ..) fun _ _ => .completed rfl

theorem execSqrel_alikeBut : AlikeBut x r m (execSqrel s) (execSqrel (s.replaceSlot x r m)) := by
  refine .ite (.completed rfl) <| .ite (.stored (s.replaceSlot_scrub r m hx) fun u hu => .completed ?_) <|
    .completed (s.replaceSlot_release r m hx)
  obtain ⟨-, rfl⟩ := State.scrub_eq_some.mp hu
  exact State.replaceSlot_release _ r m hx

end Bound

/-! ## The commands that name another slot -/

section Named

variable {x sl} (hy : sl ≠ x)
include hy

/-! ### Buffer access and CRCB (spec/44_buffer.md, spec/45_crc.md) -/

theorem execCrcb_alikeBut : AlikeBut x r m (execCrcb sl a b s) (execCrcb sl a b (s.replaceSlot x r m)) := by
  unfold execCrcb
  rw [s.replaceSlot_rxBusy r m hy]
  exact .ite .raised <| .ite .raised <| .ite .raised <| .memRead hy fun _ => .completed rfl

theorem execBrd_alikeBut (w : Nat) : AlikeBut x r m (execBrd e a sl b w s) (execBrd e a sl b w (s.replaceSlot x r m)) := by
  unfold execBrd
  rw [s.replaceSlot_rxBusy r m hy]
  exact .ite .raised <| .ite .raised <| .ite .raised <| .memRead hy fun _ => .completed rfl

theorem execBwr_alikeBut (w : Nat) : AlikeBut x r m (execBwr e sl b w a s) (execBwr e sl b w a (s.replaceSlot x r m)) := by
  unfold execBwr
  rw [s.replaceSlot_rxBusy r m hy]
  exact .ite .raised <| .ite .raised <| .ite .raised <| .stored (s.replaceSlot_memWrite r m hy ..) fun _ _ => .completed rfl

theorem execFtob_alikeBut (fo : BitVec 3) (n : BitVec 4) :
    AlikeBut x r m (execFtob sl b f fo n s) (execFtob sl b f fo n (s.replaceSlot x r m)) := by
  unfold execFtob
  rw [s.replaceSlot_rxBusy r m hy]
  exact .ite .raised <| .ite .raised <| .ite .raised <| .ite .raised <| .ite .raised <|
    .stored (s.replaceSlot_memWrite r m hy ..) fun _ _ => .completed rfl

theorem execBtof_alikeBut (fo : BitVec 3) (n : BitVec 4) :
    AlikeBut x r m (execBtof f fo n sl b s) (execBtof f fo n sl b (s.replaceSlot x r m)) := by
  unfold execBtof
  rw [s.replaceSlot_rxBusy r m hy]
  exact .ite .raised <| .ite .raised <| .ite .raised <| .ite .raised <| .ite .raised <|
    .memRead hy fun _ => .completed (s.replaceSlot_setFrame ..)

/-! ### The start of a transfer (spec/42_sequencer.md) -/

/-- SEQ takes a slot that is not x. -/
theorem State.replaceSlot_bindSlot (q : Sequencer) :
    ((s.replaceSlot x r m).setSeq q).bindSlot sl = ((s.setSeq q).bindSlot sl).replaceSlot x r m := by
  unfold State.bindSlot
  rw [State.setSeq_slot, State.setSeq_slot, s.replaceSlot_slot r m hy]
  exact (s.setSeq q).replaceSlot_setSlot r m hy _

theorem execSqseg_alikeBut (dir : Dir) (role : Role) (u : Bool) :
    AlikeBut x r m (execSqseg sl a dir role u s) (execSqseg sl a dir role u (s.replaceSlot x r m)) := by
  unfold execSqseg
  rw [s.replaceSlot_slot r m hy]
  exact .ite .raised <| .ite .raised <| .ite .raised <| .ite .raised <| .ite (.completed rfl) <|
    .completed (s.replaceSlot_bindSlot r m hy _)

theorem execSqblk_alikeBut (dir : Dir) :
    AlikeBut x r m (execSqblk sl a b dir s) (execSqblk sl a b dir (s.replaceSlot x r m)) := by
  unfold execSqblk
  rw [s.replaceSlot_slot r m hy]
  exact .ite .raised <| .ite .raised <| .ite .raised <| .ite .raised <| .ite (.completed rfl) <|
    .completed (s.replaceSlot_bindSlot r m hy _)

/-! ### The reassembly buffer (spec/43_reassembly.md) -/

theorem execRaclose_alikeBut : AlikeBut x r m (execRaclose sl s) (execRaclose sl (s.replaceSlot x r m)) := by
  unfold execRaclose
  rw [s.replaceSlot_slot r m hy]
  exact .ite .raised <| .ite (.completed rfl) <| .ite .raised <|
    .ite (.stored (s.replaceSlot_scrub r m hy) fun u _ => .completed (u.replaceSlot_setSlot r m hy _)) <|
    .completed (s.replaceSlot_setSlot r m hy _)

theorem execRacts_alikeBut : AlikeBut x r m (execRacts sl a b s) (execRacts sl a b (s.replaceSlot x r m)) := by
  unfold execRacts
  rw [s.replaceSlot_slot r m hy]
  refine .ite .raised <| .ite .raised <| .completed ?_
  rw [s.replaceSlot_setSlot r m hy]
  rfl

theorem execRactstx_alikeBut : AlikeBut x r m (execRactstx sl a b s) (execRactstx sl a b (s.replaceSlot x r m)) := by
  unfold execRactstx
  rw [s.replaceSlot_slot r m hy]
  exact .ite .raised <| .ite .raised <| .ite (.completed (s.replaceSlot_setSlot r m hy _)) <| .ite (.completed rfl) <|
    .completed (s.replaceSlot_setSlot r m hy _)

theorem execRadpo_alikeBut : AlikeBut x r m (execRadpo sl a b s) (execRadpo sl a b (s.replaceSlot x r m)) := by
  unfold execRadpo
  rw [s.replaceSlot_slot r m hy]
  exact .ite .raised <| .ite .raised <| .ite (.completed rfl) <| .completed (s.replaceSlot_setSlot r m hy _)

theorem execRadt_alikeBut : AlikeBut x r m (execRadt sl f s) (execRadt sl f (s.replaceSlot x r m)) := by
  unfold execRadt
  rw [s.replaceSlot_slot r m hy]
  exact .ite .raised <| .ite .raised <| .ite (.completed rfl) <| .ite (.completed rfl) <| .ite (.completed rfl) <|
    .ite (.completed rfl) <| .ite (.completed rfl) <| .ite (.completed rfl) <|
    .stored (s.replaceSlot_memWrite r m hy ..) fun u _ => .completed (u.replaceSlot_setSlot r m hy _)

theorem execRatx_alikeBut : AlikeBut x r m (execRatx sl f s) (execRatx sl f (s.replaceSlot x r m)) := by
  unfold execRatx
  rw [s.replaceSlot_slot r m hy]
  refine .ite .raised <| .ite .raised <| .ite .raised <| .memRead hy fun bs => .completed ?_
  rw [s.replaceSlot_setFrame]
  exact State.replaceSlot_setSlot _ r m hy _

end Named

end Commands

/-! ## Every command -/

/-- Every command that neither names x nor, having no slot field, finds SEQ bound to it. RAOPEN and RAFIND compare the keys
of all slots (R257, R263). -/
theorem exec_alikeBut (i : Instr) (s : State) {x : SlotNo} (r : Slot) (m : Memory) (hname : i.slotField ≠ some x)
    (hbound : i.slotField = none → s.seq.slot ≠ x) (hopen : ∀ sl a b c, i ≠ .raopen sl a b c)
    (hfind : ∀ a b c, i ≠ .rafind a b c) : AlikeBut x r m (exec i s) (exec i (s.replaceSlot x r m)) := by
  have other {sl : SlotNo} (h : i.slotField = some sl) : sl ≠ x := fun e => hname (e ▸ h)
  cases i with
  | nop => exact .completed rfl
  | ldi a imm => exact .completed rfl
  | ldih a imm => exact .completed rfl
  | finit f a fmt len fill => exact execFinit_alikeBut ..
  | fcopy f g => exact .completed (s.replaceSlot_setFrame ..)
  | fgetb e a f off w => exact execFgetb_alikeBut ..
  | fputb e f off w a => exact execFputb_alikeBut ..
  | fgetx a f sp pos n => exact execFgetx_alikeBut ..
  | fputx f sp pos n a => exact execFputx_alikeBut ..
  | fclass a f => exact .completed rfl
  | crcclr => exact .completed rfl
  | crcf f off n => exact execCrcf_alikeBut ..
  | crcb sl a b => exact execCrcb_alikeBut (hy := other rfl) ..
  | crcrd a => exact .completed rfl
  | crcchk a => exact execCrcchk_alikeBut ..
  | brd e a sl b w => exact execBrd_alikeBut (hy := other rfl) ..
  | bwr e sl b w a => exact execBwr_alikeBut (hy := other rfl) ..
  | ftob sl b f fo n => exact execFtob_alikeBut (hy := other rfl) ..
  | btof f fo n sl b => exact execBtof_alikeBut (hy := other rfl) ..
  | sqseg sl a dir role u => exact execSqseg_alikeBut (hy := other rfl) ..
  | sqblk sl a b dir => exact execSqblk_alikeBut (hy := other rfl) ..
  | sqsend f cs => exact execSqsend_alikeBut (hx := hbound rfl) ..
  | sqrecv f cs => exact execSqrecv_alikeBut (hx := hbound rfl) ..
  | sqbtx f => exact execSqbtx_alikeBut (hx := hbound rfl) ..
  | sqbrx f => exact execSqbrx_alikeBut (hx := hbound rfl) ..
  | sqback a b => exact execSqback_alikeBut ..
  | sqrel => exact execSqrel_alikeBut (hx := hbound rfl) ..
  | raopen sl a b c => exact (hopen sl a b c rfl).elim
  | raclose sl => exact execRaclose_alikeBut (hy := other rfl) ..
  | rafind a b c => exact (hfind a b c rfl).elim
  | racts sl a b => exact execRacts_alikeBut (hy := other rfl) ..
  | ractstx sl a b => exact execRactstx_alikeBut (hy := other rfl) ..
  | radpo sl a b => exact execRadpo_alikeBut (hy := other rfl) ..
  | radt sl f => exact execRadt_alikeBut (hy := other rfl) ..
  | ratx sl f => exact execRatx_alikeBut (hy := other rfl) ..

/-- Settles O11: the two runs answer alike, so a next state of the one gives the other's. -/
theorem sessionsAreIndependent : Obligations.SessionsAreIndependent := by
  unfold Obligations.SessionsAreIndependent
  intro i s t x r m hname hbound hopen hfind ht
  exact (exec_alikeBut i s r m hname (fun h => (hbound h).symm) hopen hfind).eq_next ht

end Sys2Proof.Machine
end

section
/-! PROOF. Obligation O12 (spec/20_memory.md R85): the offsets of the window that hold no register. -/

namespace Sys2Proof.Machine

/-- R31, R53: outside the registers' ranges, and above the groups of the slots that exist, no register is mapped. -/
theorem regAt_eq_none (c : Config) {off : BitVec 12} {k : Nat} (hk : off.toNat / 4 = k) (hlow : 5 ≤ k)
    (hframe : k < 8 ∨ 24 ≤ k) (hseq : k < 32 ∨ 36 ≤ k) (hslot : k < 64 ∨ 64 + 8 * c.nslot ≤ k) : regAt c off = none := by
  unfold regAt
  rw [wordIndex_toNat, hk]
  dsimp only
  rw [if_neg (c := 8 ≤ k ∧ k < 16) (by omega), if_neg (by omega)]
  split
  case h_18 => rfl
  all_goals omega

theorem State.hostRead_of_unmapped {s : State} {off : BitVec 12} (h : regAt s.cfg off = none) : s.hostRead off = 0 := by
  simp only [State.hostRead, h]

/-- Settles O12: at such an offset no register is selected. -/
theorem unmappedOffsets : Obligations.UnmappedOffsets := by
  unfold Obligations.UnmappedOffsets
  intro s off _ k hk
  have hnone : regAt s.cfg off = none :=
    regAt_eq_none s.cfg rfl (by omega) (by omega) (by omega) (by omega)
  exact ⟨State.hostRead_of_unmapped hnone, hostWrite_of_unmapped hnone⟩

end Sys2Proof.Machine
end

section
/-! PROOF. Obligations O1 to O4 and O6 (spec/30_encoding.md R110 to R132, R136): one equivalence per format says which fields a
word has when it is that format's encoding, and one case analysis of the decoder says all that it can answer. -/

namespace Sys2Proof.Machine

/-! ## Fields of a concatenation -/

/-- A field of a field is a field. -/
theorem field_of_field {v : Nat} (w : BitVec v) (lo : Nat) {a b k : Nat} (h : a + b ≤ k) :
    (w.extractLsb' lo k).extractLsb' a b = w.extractLsb' (lo + a) b := by
  ext i hi
  simp only [BitVec.getElem_extractLsb', BitVec.getLsbD_extractLsb', Nat.add_assoc, show a + i < k by omega, decide_true,
    Bool.true_and]

theorem field_eq_append_iff {v lo m n : Nat} {w : BitVec v} {x : BitVec m} {y : BitVec n} :
    w.extractLsb' lo (m + n) = x ++ y ↔ w.extractLsb' (lo + n) m = x ∧ w.extractLsb' lo n = y := by
  constructor
  · intro h
    have hx := field_of_field w lo (a := n) (b := m) (k := m + n) (by omega)
    have hy := field_of_field w lo (a := 0) (b := n) (k := m + n) (by omega)
    rw [h] at hx hy
    rw [← hx, ← Nat.add_zero lo, ← hy, BitVec.extractLsb'_append_eq_of_le le_rfl,
      BitVec.extractLsb'_append_eq_of_add_le (Nat.zero_add n).le, Nat.sub_self]
    exact ⟨BitVec.extractLsb'_eq_self, BitVec.extractLsb'_eq_self⟩
  · rintro ⟨rfl, rfl⟩
    rw [BitVec.extractLsb'_append_extractLsb'_eq_extractLsb' rfl]

theorem append_eq_iff {m n : Nat} {w : BitVec (m + n)} {x : BitVec m} {y : BitVec n} :
    x ++ y = w ↔ w.extractLsb' n m = x ∧ w.extractLsb' 0 n = y := by
  conv_lhs => rw [eq_comm, ← BitVec.extractLsb'_eq_self (x := w), field_eq_append_iff, Nat.zero_add]

/-! ## Reserved bits (R128, step 2) -/

/-- No bit that the row's mask reserves is set. -/
def ReservedZero (w mask : Word) : Prop := w &&& mask &&& 0x03FFFFFF#32 = 0#32

theorem reservedClear_of_zero {w mask : Word} {i : Instr} (h : ReservedZero w mask) : reservedClear w mask i = .ok i :=
  if_pos h

theorem reservedClear_of_set {w mask : Word} {i : Instr} (h : ¬ ReservedZero w mask) :
    reservedClear w mask i = .error .illegalEnc := if_neg h

theorem reservedClear_eq_ok_iff {w mask : Word} {i j : Instr} :
    reservedClear w mask i = .ok j ↔ ReservedZero w mask ∧ i = j := by
  by_cases h : ReservedZero w mask
  · simp [reservedClear_of_zero h, h]
  · simp [reservedClear_of_set h, h]

/-- The word with ones in the n bits from bit lo on. -/
def ones (lo n : Nat) : Word := (BitVec.allOnes n).setWidth 32 <<< lo

theorem and_ones_eq_zero_iff {w : Word} {lo n : Nat} : w &&& ones lo n = 0#32 ↔ w.extractLsb' lo n = 0#n := by
  simp only [BitVec.eq_of_getLsbD_eq_iff, ones, BitVec.getLsbD_and, BitVec.getLsbD_shiftLeft, BitVec.getLsbD_setWidth,
    BitVec.getLsbD_allOnes, BitVec.getLsbD_extractLsb', BitVec.getLsbD_zero]
  constructor
  · intro h i hi
    by_cases hlt : lo + i < 32
    · simpa [hi, hlt, show i < 32 by omega] using h (lo + i) hlt
    · simp [BitVec.getLsbD_of_ge w (lo + i) (by omega)]
  · intro h i hi
    by_cases hr : lo ≤ i ∧ i - lo < n
    · have hbit := h (i - lo) hr.2
      rw [Nat.add_sub_cancel' hr.1, decide_eq_true hr.2, Bool.true_and] at hbit
      rw [hbit, Bool.false_and]
    · obtain hlo | hn := not_and_or.mp hr
      · simp [show i < lo by omega]
      · simp [hn]

/-- The union of bit ranges, each given by its lowest bit and its width. -/
def onesIn (l : List (Nat × Nat)) : Word := l.foldr (fun r m => ones r.1 r.2 ||| m) 0#32

theorem and_onesIn_eq_zero_iff {w : Word} (l : List (Nat × Nat)) :
    w &&& onesIn l = 0#32 ↔ ∀ r ∈ l, w.extractLsb' r.1 r.2 = 0#r.2 := by
  induction l with
  | nil => simp [onesIn]
  | cons r l ih =>
    rw [List.forall_mem_cons, ← ih, ← and_ones_eq_zero_iff, ← BitVec.or_eq_zero_iff, ← BitVec.and_or_distrib_left]
    rfl

/-- The bits a mask reserves, as fields of the word. -/
theorem reservedZero_iff {w : Word} (mask : Word) (l : List (Nat × Nat)) (h : mask &&& 0x03FFFFFF#32 = onesIn l) :
    ReservedZero w mask ↔ ∀ r ∈ l, w.extractLsb' r.1 r.2 = 0#r.2 := by
  rw [← and_onesIn_eq_zero_iff, ← h, ← BitVec.and_assoc, ReservedZero]

/-! ## Operand fields (R112, R113, R126) -/

section Operands
variable {b : BitVec 1}

theorem FrameReg.eq_bit_iff {f : FrameReg} : b = f.bit ↔ FrameReg.ofBit b = f := by
  revert b; cases f <;> decide

theorem ByteOrder.eq_bit_iff {e : ByteOrder} : b = e.bit ↔ ByteOrder.ofBit b = e := by
  revert b; cases e <;> decide

theorem Space.eq_bit_iff {sp : Space} : b = sp.bit ↔ Space.ofBit b = sp := by
  revert b; cases sp <;> decide

theorem IdFormat.eq_bit_iff {fmt : IdFormat} : b = fmt.bit ↔ IdFormat.ofBit b = fmt := by
  revert b; cases fmt <;> decide

theorem Dir.eq_bit_iff {dir : Dir} : b = dir.bit ↔ Dir.ofBit b = dir := by
  revert b; cases dir <;> decide

theorem Role.eq_bit_iff {role : Role} : b = role.bit ↔ Role.ofBit b = role := by
  revert b; cases role <;> decide

theorem eq_flagBit_iff {u : Bool} : b = flagBit u ↔ (b == 1#1) = u := by
  revert b; cases u <;> decide

end Operands

theorem widthOk_iff {n : Nat} : widthOk n = true ↔ 1 ≤ n ∧ n ≤ 4 := by simp

theorem countOk_iff {n : Nat} : countOk n = true ↔ 1 ≤ n ∧ n ≤ 32 := by simp

theorem widthOk_fieldWidth (w : Word) : widthOk (fieldWidth w) = true :=
  widthOk_iff.mpr ⟨Nat.le_add_left .., (w.extractLsb' 7 2).isLt⟩

theorem countOk_fieldCount (w : Word) : countOk (fieldCount w) = true :=
  countOk_iff.mpr ⟨Nat.le_add_left .., (w.extractLsb' 1 5).isLt⟩

theorem eq_encWidth_iff {n : Nat} {b : BitVec 2} (hn : widthOk n = true) : b = encWidth n ↔ b.toNat + 1 = n := by
  have hn := widthOk_iff.mp hn
  rw [← BitVec.toNat_inj, encWidth, BitVec.toNat_ofNat]
  omega

theorem eq_encCount_iff {n : Nat} {b : BitVec 5} (hn : countOk n = true) : b = encCount n ↔ b.toNat + 1 = n := by
  have hn := countOk_iff.mp hn
  rw [← BitVec.toNat_inj, encCount, BitVec.toNat_ofNat]
  omega

/-! ## The formats (R114 to R124)

A word is a format's encoding of given operands exactly when its fields are these operands and its reserved bits are zero. The
concatenation is taken apart into fields and the mask into bit ranges, and `tauto` puts the two lists in one order. -/

section Formats
variable {w : Word} {op : BitVec 6} {a b c : DReg} {sl : SlotNo} {f g : FrameReg} {e : ByteOrder} {sp : Space}
  {fmt : IdFormat} {dir : Dir} {role : Role} {u : Bool} {imm : BitVec 16} {len k : BitVec 4} {fill : Byte}
  {off : BitVec 3} {pos : BitVec 6} {n : Nat}

theorem encZ_eq_iff : encZ op = w ↔ fieldOp w = op ∧ ReservedZero w 0xFFFFFFFF := by
  rw [reservedZero_iff 0xFFFFFFFF [(0, 26)] (by decide), List.forall_mem_singleton]
  exact append_eq_iff

theorem encI_eq_iff : encI op a imm = w ↔
    fieldOp w = op ∧ fieldA w = a ∧ fieldImm16 w = imm ∧ ReservedZero w 0xFC7F0000 := by
  refine append_eq_iff.trans ?_
  simp only [field_eq_append_iff, List.forall_mem_cons, reservedZero_iff 0xFC7F0000 [(16, 7)] (by decide)]
  tauto

theorem encFI_eq_iff : encFI op a f fmt len fill = w ↔
    fieldOp w = op ∧ fieldA w = a ∧ fieldF w = f ∧ IdFormat.ofBit (bit12 w) = fmt ∧ fieldLen w = len ∧
      fieldFill w = fill ∧ ReservedZero w 0xFC7FC000 := by
  refine append_eq_iff.trans ?_
  simp only [field_eq_append_iff, FrameReg.eq_bit_iff, IdFormat.eq_bit_iff, List.forall_mem_cons,
    reservedZero_iff 0xFC7FC000 [(14, 9)] (by decide)]
  tauto

theorem encFC_eq_iff : encFC op f g = w ↔
    fieldOp w = op ∧ fieldF w = f ∧ FrameReg.ofBit (bit12 w) = g ∧ ReservedZero w 0xFFFFCFFF := by
  refine append_eq_iff.trans ?_
  simp only [field_eq_append_iff, FrameReg.eq_bit_iff, List.forall_mem_cons,
    reservedZero_iff 0xFFFFCFFF [(14, 12), (0, 12)] (by decide)]
  tauto

theorem encFB_eq_iff (hn : widthOk n = true) : encFB op a f e off n = w ↔
    fieldOp w = op ∧ fieldA w = a ∧ fieldF w = f ∧ ByteOrder.ofBit (bit12 w) = e ∧ fieldOff w = off ∧
      fieldWidth w = n ∧ ReservedZero w 0xFC7FC07F := by
  refine append_eq_iff.trans ?_
  simp only [field_eq_append_iff, FrameReg.eq_bit_iff, ByteOrder.eq_bit_iff, eq_encWidth_iff hn, List.forall_mem_cons,
    reservedZero_iff 0xFC7FC07F [(14, 9), (0, 7)] (by decide)]
  tauto

theorem encFX_eq_iff (hn : countOk n = true) : encFX op a f sp pos n = w ↔
    fieldOp w = op ∧ fieldA w = a ∧ fieldF w = f ∧ Space.ofBit (bit12 w) = sp ∧ fieldPos w = pos ∧ fieldCount w = n ∧
      ReservedZero w 0xFC7FC001 := by
  refine append_eq_iff.trans ?_
  simp only [field_eq_append_iff, FrameReg.eq_bit_iff, Space.eq_bit_iff, eq_encCount_iff hn, List.forall_mem_cons,
    reservedZero_iff 0xFC7FC001 [(14, 9), (0, 1)] (by decide)]
  tauto

theorem encFK_eq_iff : encFK op a f = w ↔
    fieldOp w = op ∧ fieldA w = a ∧ fieldF w = f ∧ ReservedZero w 0xFC7FDFFF := by
  refine append_eq_iff.trans ?_
  simp only [field_eq_append_iff, FrameReg.eq_bit_iff, List.forall_mem_cons,
    reservedZero_iff 0xFC7FDFFF [(14, 9), (0, 13)] (by decide)]
  tauto

theorem encCF_eq_iff : encCF op f off k = w ↔
    fieldOp w = op ∧ fieldF w = f ∧ fieldOff w = off ∧ fieldN w = k ∧ ReservedZero w 0xFFFFD01F := by
  refine append_eq_iff.trans ?_
  simp only [field_eq_append_iff, FrameReg.eq_bit_iff, List.forall_mem_cons,
    reservedZero_iff 0xFFFFD01F [(14, 12), (12, 1), (0, 5)] (by decide)]
  tauto

theorem encCB_eq_iff : encCB op a b sl = w ↔
    fieldOp w = op ∧ fieldA w = a ∧ fieldB w = b ∧ fieldS w = sl ∧ ReservedZero w 0xFC0E3FFF := by
  refine append_eq_iff.trans ?_
  simp only [field_eq_append_iff, List.forall_mem_cons, reservedZero_iff 0xFC0E3FFF [(17, 3), (0, 14)] (by decide)]
  tauto

theorem encR1_eq_iff : encR1 op a = w ↔
    fieldOp w = op ∧ fieldA w = a ∧ ReservedZero w 0xFC7FFFFF := by
  refine append_eq_iff.trans ?_
  simp only [field_eq_append_iff, List.forall_mem_cons, reservedZero_iff 0xFC7FFFFF [(0, 23)] (by decide)]
  tauto

theorem encBM_eq_iff (hn : widthOk n = true) : encBM op a b sl e n = w ↔
    fieldOp w = op ∧ fieldA w = a ∧ fieldB w = b ∧ fieldS w = sl ∧ ByteOrder.ofBit (bit12 w) = e ∧ fieldWidth w = n ∧
      ReservedZero w 0xFC0E2E7F := by
  refine append_eq_iff.trans ?_
  simp only [field_eq_append_iff, ByteOrder.eq_bit_iff, eq_encWidth_iff hn, List.forall_mem_cons,
    reservedZero_iff 0xFC0E2E7F [(17, 3), (13, 1), (9, 3), (0, 7)] (by decide)]
  tauto

theorem encBF_eq_iff : encBF op b sl f off k = w ↔
    fieldOp w = op ∧ fieldB w = b ∧ fieldS w = sl ∧ fieldF w = f ∧ fieldOff w = off ∧ fieldN w = k ∧
      ReservedZero w 0xFF8E101F := by
  refine append_eq_iff.trans ?_
  simp only [field_eq_append_iff, FrameReg.eq_bit_iff, List.forall_mem_cons,
    reservedZero_iff 0xFF8E101F [(23, 3), (17, 3), (12, 1), (0, 5)] (by decide)]
  tauto

theorem encSS_eq_iff : encSS op a sl dir role u = w ↔
    fieldOp w = op ∧ fieldA w = a ∧ fieldS w = sl ∧ Dir.ofBit (bit13 w) = dir ∧ Role.ofBit (bit12 w) = role ∧
      (bit11 w == 1#1) = u ∧ ReservedZero w 0xFC7E07FF := by
  refine append_eq_iff.trans ?_
  simp only [field_eq_append_iff, Dir.eq_bit_iff, Role.eq_bit_iff, eq_flagBit_iff, List.forall_mem_cons,
    reservedZero_iff 0xFC7E07FF [(17, 6), (0, 11)] (by decide)]
  tauto

theorem encSB_eq_iff : encSB op a b sl dir = w ↔
    fieldOp w = op ∧ fieldA w = a ∧ fieldB w = b ∧ fieldS w = sl ∧ Dir.ofBit (bit13 w) = dir ∧
      ReservedZero w 0xFC0E1FFF := by
  refine append_eq_iff.trans ?_
  simp only [field_eq_append_iff, Dir.eq_bit_iff, List.forall_mem_cons,
    reservedZero_iff 0xFC0E1FFF [(17, 3), (0, 13)] (by decide)]
  tauto

theorem encSF_eq_iff : encSF op f off = w ↔
    fieldOp w = op ∧ fieldF w = f ∧ fieldOff w = off ∧ ReservedZero w 0xFFFFD1FF := by
  refine append_eq_iff.trans ?_
  simp only [field_eq_append_iff, FrameReg.eq_bit_iff, List.forall_mem_cons,
    reservedZero_iff 0xFFFFD1FF [(14, 12), (12, 1), (0, 9)] (by decide)]
  tauto

theorem encSG_eq_iff : encSG op f = w ↔
    fieldOp w = op ∧ fieldF w = f ∧ ReservedZero w 0xFFFFDFFF := by
  refine append_eq_iff.trans ?_
  simp only [field_eq_append_iff, FrameReg.eq_bit_iff, List.forall_mem_cons,
    reservedZero_iff 0xFFFFDFFF [(14, 12), (0, 13)] (by decide)]
  tauto

theorem encSK_eq_iff : encSK op a b = w ↔
    fieldOp w = op ∧ fieldA w = a ∧ fieldB w = b ∧ ReservedZero w 0xFC0FFFFF := by
  refine append_eq_iff.trans ?_
  simp only [field_eq_append_iff, List.forall_mem_cons, reservedZero_iff 0xFC0FFFFF [(0, 20)] (by decide)]
  tauto

theorem encRO_eq_iff : encRO op a b c sl = w ↔
    fieldOp w = op ∧ fieldA w = a ∧ fieldB w = b ∧ fieldC w = c ∧ fieldS w = sl ∧ ReservedZero w 0xFC003FFF := by
  refine append_eq_iff.trans ?_
  simp only [field_eq_append_iff, List.forall_mem_cons, reservedZero_iff 0xFC003FFF [(0, 14)] (by decide)]
  tauto

theorem encRS_eq_iff : encRS op sl = w ↔
    fieldOp w = op ∧ fieldS w = sl ∧ ReservedZero w 0xFFFE3FFF := by
  refine append_eq_iff.trans ?_
  simp only [field_eq_append_iff, List.forall_mem_cons, reservedZero_iff 0xFFFE3FFF [(17, 9), (0, 14)] (by decide)]
  tauto

theorem encRF_eq_iff : encRF op a b c = w ↔
    fieldOp w = op ∧ fieldA w = a ∧ fieldB w = b ∧ fieldC w = c ∧ ReservedZero w 0xFC01FFFF := by
  refine append_eq_iff.trans ?_
  simp only [field_eq_append_iff, List.forall_mem_cons, reservedZero_iff 0xFC01FFFF [(0, 17)] (by decide)]
  tauto

theorem encRW_eq_iff : encRW op a b sl = w ↔
    fieldOp w = op ∧ fieldA w = a ∧ fieldB w = b ∧ fieldS w = sl ∧ ReservedZero w 0xFC0E3FFF := encCB_eq_iff

theorem encRD_eq_iff : encRD op sl f = w ↔
    fieldOp w = op ∧ fieldS w = sl ∧ fieldF w = f ∧ ReservedZero w 0xFFFE1FFF := by
  refine append_eq_iff.trans ?_
  simp only [field_eq_append_iff, FrameReg.eq_bit_iff, List.forall_mem_cons,
    reservedZero_iff 0xFFFE1FFF [(17, 9), (0, 13)] (by decide)]
  tauto

end Formats

/-! ## Decoding inverts encoding (R129) -/

/-- The encoding of an instruction decodes to it: its opcode selects the row, and the fields that the row reads are the
operands. -/
theorem decode_of_encode_eq {i : Instr} {w : Word} (hi : i.wellFormed = true) (h : encode i = w) : decode w = .ok i := by
  cases i with
  | nop =>
    obtain ⟨hop, hc⟩ := encZ_eq_iff.mp h
    rw [decode, hop]
    exact reservedClear_of_zero hc
  | ldi a imm =>
    obtain ⟨hop, rfl, rfl, hc⟩ := encI_eq_iff.mp h
    rw [decode, hop]
    exact reservedClear_of_zero hc
  | ldih a imm =>
    obtain ⟨hop, rfl, rfl, hc⟩ := encI_eq_iff.mp h
    rw [decode, hop]
    exact reservedClear_of_zero hc
  | finit f a fmt len fill =>
    obtain ⟨hop, rfl, rfl, rfl, rfl, rfl, hc⟩ := encFI_eq_iff.mp h
    rw [decode, hop]
    exact reservedClear_of_zero hc
  | fcopy f g =>
    obtain ⟨hop, rfl, rfl, hc⟩ := encFC_eq_iff.mp h
    rw [decode, hop]
    exact reservedClear_of_zero hc
  | fgetb e a f off n =>
    obtain ⟨hop, rfl, rfl, rfl, rfl, rfl, hc⟩ := (encFB_eq_iff hi).mp h
    rw [decode, hop]
    exact reservedClear_of_zero hc
  | fputb e f off n a =>
    obtain ⟨hop, rfl, rfl, rfl, rfl, rfl, hc⟩ := (encFB_eq_iff hi).mp h
    rw [decode, hop]
    exact reservedClear_of_zero hc
  | fgetx a f sp pos n =>
    obtain ⟨hop, rfl, rfl, rfl, rfl, rfl, hc⟩ := (encFX_eq_iff hi).mp h
    rw [decode, hop]
    exact reservedClear_of_zero hc
  | fputx f sp pos n a =>
    obtain ⟨hop, rfl, rfl, rfl, rfl, rfl, hc⟩ := (encFX_eq_iff hi).mp h
    rw [decode, hop]
    exact reservedClear_of_zero hc
  | fclass a f =>
    obtain ⟨hop, rfl, rfl, hc⟩ := encFK_eq_iff.mp h
    rw [decode, hop]
    exact reservedClear_of_zero hc
  | crcclr =>
    obtain ⟨hop, hc⟩ := encZ_eq_iff.mp h
    rw [decode, hop]
    exact reservedClear_of_zero hc
  | crcf f off k =>
    obtain ⟨hop, rfl, rfl, rfl, hc⟩ := encCF_eq_iff.mp h
    rw [decode, hop]
    exact reservedClear_of_zero hc
  | crcb sl a b =>
    obtain ⟨hop, rfl, rfl, rfl, hc⟩ := encCB_eq_iff.mp h
    rw [decode, hop]
    exact reservedClear_of_zero hc
  | crcrd a =>
    obtain ⟨hop, rfl, hc⟩ := encR1_eq_iff.mp h
    rw [decode, hop]
    exact reservedClear_of_zero hc
  | crcchk a =>
    obtain ⟨hop, rfl, hc⟩ := encR1_eq_iff.mp h
    rw [decode, hop]
    exact reservedClear_of_zero hc
  | brd e a sl b n =>
    obtain ⟨hop, rfl, rfl, rfl, rfl, rfl, hc⟩ := (encBM_eq_iff hi).mp h
    rw [decode, hop]
    exact reservedClear_of_zero hc
  | bwr e sl b n a =>
    obtain ⟨hop, rfl, rfl, rfl, rfl, rfl, hc⟩ := (encBM_eq_iff hi).mp h
    rw [decode, hop]
    exact reservedClear_of_zero hc
  | ftob sl b f off k =>
    obtain ⟨hop, rfl, rfl, rfl, rfl, rfl, hc⟩ := encBF_eq_iff.mp h
    rw [decode, hop]
    exact reservedClear_of_zero hc
  | btof f off k sl b =>
    obtain ⟨hop, rfl, rfl, rfl, rfl, rfl, hc⟩ := encBF_eq_iff.mp h
    rw [decode, hop]
    exact reservedClear_of_zero hc
  | sqseg sl a dir role u =>
    obtain ⟨hop, rfl, rfl, rfl, rfl, rfl, hc⟩ := encSS_eq_iff.mp h
    rw [decode, hop]
    exact reservedClear_of_zero hc
  | sqblk sl a b dir =>
    obtain ⟨hop, rfl, rfl, rfl, rfl, hc⟩ := encSB_eq_iff.mp h
    rw [decode, hop]
    exact reservedClear_of_zero hc
  | sqsend f off =>
    obtain ⟨hop, rfl, rfl, hc⟩ := encSF_eq_iff.mp h
    rw [decode, hop]
    exact reservedClear_of_zero hc
  | sqrecv f off =>
    obtain ⟨hop, rfl, rfl, hc⟩ := encSF_eq_iff.mp h
    rw [decode, hop]
    exact reservedClear_of_zero hc
  | sqbtx f =>
    obtain ⟨hop, rfl, hc⟩ := encSG_eq_iff.mp h
    rw [decode, hop]
    exact reservedClear_of_zero hc
  | sqbrx f =>
    obtain ⟨hop, rfl, hc⟩ := encSG_eq_iff.mp h
    rw [decode, hop]
    exact reservedClear_of_zero hc
  | sqback a b =>
    obtain ⟨hop, rfl, rfl, hc⟩ := encSK_eq_iff.mp h
    rw [decode, hop]
    exact reservedClear_of_zero hc
  | sqrel =>
    obtain ⟨hop, hc⟩ := encZ_eq_iff.mp h
    rw [decode, hop]
    exact reservedClear_of_zero hc
  | raopen sl a b c =>
    obtain ⟨hop, rfl, rfl, rfl, rfl, hc⟩ := encRO_eq_iff.mp h
    rw [decode, hop]
    exact reservedClear_of_zero hc
  | raclose sl =>
    obtain ⟨hop, rfl, hc⟩ := encRS_eq_iff.mp h
    rw [decode, hop]
    exact reservedClear_of_zero hc
  | rafind a b c =>
    obtain ⟨hop, rfl, rfl, rfl, hc⟩ := encRF_eq_iff.mp h
    rw [decode, hop]
    exact reservedClear_of_zero hc
  | racts sl a b =>
    obtain ⟨hop, rfl, rfl, rfl, hc⟩ := encRW_eq_iff.mp h
    rw [decode, hop]
    exact reservedClear_of_zero hc
  | ractstx sl a b =>
    obtain ⟨hop, rfl, rfl, rfl, hc⟩ := encRW_eq_iff.mp h
    rw [decode, hop]
    exact reservedClear_of_zero hc
  | radpo sl a b =>
    obtain ⟨hop, rfl, rfl, rfl, hc⟩ := encRW_eq_iff.mp h
    rw [decode, hop]
    exact reservedClear_of_zero hc
  | radt sl f =>
    obtain ⟨hop, rfl, rfl, hc⟩ := encRD_eq_iff.mp h
    rw [decode, hop]
    exact reservedClear_of_zero hc
  | ratx sl f =>
    obtain ⟨hop, rfl, rfl, hc⟩ := encRD_eq_iff.mp h
    rw [decode, hop]
    exact reservedClear_of_zero hc

/-- Settles O1: every instruction decodes from its own encoding. -/
theorem decodeOfEncode : Obligations.DecodeOfEncode := fun _ hi => decode_of_encode_eq hi rfl

/-! ## What the decoder can answer (R128) -/

/-- All that decode answers: ILLEGAL_OP for an opcode of no row, and otherwise, unless a reserved bit is set, an instruction
of the row that the opcode selects; that instruction encodes to the word. -/
inductive DecodeEnds (w : Word) : Except DecodeFault Instr → Prop
  | unassigned (h : ∀ row ∈ opcodeRows, row.op ≠ fieldOp w) : DecodeEnds w (.error .illegalOp)
  | selected {row : OpcodeRow} {i : Instr} (hrow : row ∈ opcodeRows) (hop : fieldOp w = row.op) (hi : i.opcode = row.op)
      (hwf : i.wellFormed = true) (henc : ReservedZero w row.mask → encode i = w) :
      DecodeEnds w (reservedClear w row.mask i)

/-- One arm of the decoder, by its opcode. -/
theorem DecodeEnds.arm {w mask : Word} {i : Instr} (op : BitVec 6) (hop : (fieldOp w).toNat = op.toNat)
    (hrow : ⟨op, mask⟩ ∈ opcodeRows) (hi : i.opcode = op) (hwf : i.wellFormed = true)
    (henc : fieldOp w = op → ReservedZero w mask → encode i = w) : DecodeEnds w (reservedClear w mask i) :=
  .selected hrow (BitVec.eq_of_toNat_eq hop) hi hwf (henc (BitVec.eq_of_toNat_eq hop))

/-- R125, R130: the opcodes of the rows. -/
theorem op_of_mem_opcodeRows : ∀ row ∈ opcodeRows, row.op.toNat ≤ 0x02 ∨ (0x08 ≤ row.op.toNat ∧ row.op.toNat ≤ 0x0E) ∨
    (0x10 ≤ row.op.toNat ∧ row.op.toNat ≤ 0x14) ∨ (0x18 ≤ row.op.toNat ∧ row.op.toNat ≤ 0x1B) ∨
    (0x20 ≤ row.op.toNat ∧ row.op.toNat ≤ 0x2F) := by decide

theorem decode_ends (w : Word) : DecodeEnds w (decode w) := by
  have hwidth := widthOk_fieldWidth w
  have hcount := countOk_fieldCount w
  unfold decode
  split
  next h => exact .arm Opcode.nop h (by decide) rfl rfl fun hop hc => encZ_eq_iff.mpr ⟨hop, hc⟩
  next h => exact .arm Opcode.ldi h (by decide) rfl rfl fun hop hc => encI_eq_iff.mpr ⟨hop, rfl, rfl, hc⟩
  next h => exact .arm Opcode.ldih h (by decide) rfl rfl fun hop hc => encI_eq_iff.mpr ⟨hop, rfl, rfl, hc⟩
  next h => exact .arm Opcode.finit h (by decide) rfl rfl fun hop hc => encFI_eq_iff.mpr ⟨hop, rfl, rfl, rfl, rfl, rfl, hc⟩
  next h => exact .arm Opcode.fcopy h (by decide) rfl rfl fun hop hc => encFC_eq_iff.mpr ⟨hop, rfl, rfl, hc⟩
  next h => exact .arm Opcode.fgetb h (by decide) rfl hwidth fun hop hc =>
    (encFB_eq_iff hwidth).mpr ⟨hop, rfl, rfl, rfl, rfl, rfl, hc⟩
  next h => exact .arm Opcode.fputb h (by decide) rfl hwidth fun hop hc =>
    (encFB_eq_iff hwidth).mpr ⟨hop, rfl, rfl, rfl, rfl, rfl, hc⟩
  next h => exact .arm Opcode.fgetx h (by decide) rfl hcount fun hop hc =>
    (encFX_eq_iff hcount).mpr ⟨hop, rfl, rfl, rfl, rfl, rfl, hc⟩
  next h => exact .arm Opcode.fputx h (by decide) rfl hcount fun hop hc =>
    (encFX_eq_iff hcount).mpr ⟨hop, rfl, rfl, rfl, rfl, rfl, hc⟩
  next h => exact .arm Opcode.fclass h (by decide) rfl rfl fun hop hc => encFK_eq_iff.mpr ⟨hop, rfl, rfl, hc⟩
  next h => exact .arm Opcode.crcclr h (by decide) rfl rfl fun hop hc => encZ_eq_iff.mpr ⟨hop, hc⟩
  next h => exact .arm Opcode.crcf h (by decide) rfl rfl fun hop hc => encCF_eq_iff.mpr ⟨hop, rfl, rfl, rfl, hc⟩
  next h => exact .arm Opcode.crcb h (by decide) rfl rfl fun hop hc => encCB_eq_iff.mpr ⟨hop, rfl, rfl, rfl, hc⟩
  next h => exact .arm Opcode.crcrd h (by decide) rfl rfl fun hop hc => encR1_eq_iff.mpr ⟨hop, rfl, hc⟩
  next h => exact .arm Opcode.crcchk h (by decide) rfl rfl fun hop hc => encR1_eq_iff.mpr ⟨hop, rfl, hc⟩
  next h => exact .arm Opcode.brd h (by decide) rfl hwidth fun hop hc =>
    (encBM_eq_iff hwidth).mpr ⟨hop, rfl, rfl, rfl, rfl, rfl, hc⟩
  next h => exact .arm Opcode.bwr h (by decide) rfl hwidth fun hop hc =>
    (encBM_eq_iff hwidth).mpr ⟨hop, rfl, rfl, rfl, rfl, rfl, hc⟩
  next h => exact .arm Opcode.ftob h (by decide) rfl rfl fun hop hc => encBF_eq_iff.mpr ⟨hop, rfl, rfl, rfl, rfl, rfl, hc⟩
  next h => exact .arm Opcode.btof h (by decide) rfl rfl fun hop hc => encBF_eq_iff.mpr ⟨hop, rfl, rfl, rfl, rfl, rfl, hc⟩
  next h => exact .arm Opcode.sqseg h (by decide) rfl rfl fun hop hc => encSS_eq_iff.mpr ⟨hop, rfl, rfl, rfl, rfl, rfl, hc⟩
  next h => exact .arm Opcode.sqblk h (by decide) rfl rfl fun hop hc => encSB_eq_iff.mpr ⟨hop, rfl, rfl, rfl, rfl, hc⟩
  next h => exact .arm Opcode.sqsend h (by decide) rfl rfl fun hop hc => encSF_eq_iff.mpr ⟨hop, rfl, rfl, hc⟩
  next h => exact .arm Opcode.sqrecv h (by decide) rfl rfl fun hop hc => encSF_eq_iff.mpr ⟨hop, rfl, rfl, hc⟩
  next h => exact .arm Opcode.sqbtx h (by decide) rfl rfl fun hop hc => encSG_eq_iff.mpr ⟨hop, rfl, hc⟩
  next h => exact .arm Opcode.sqbrx h (by decide) rfl rfl fun hop hc => encSG_eq_iff.mpr ⟨hop, rfl, hc⟩
  next h => exact .arm Opcode.sqback h (by decide) rfl rfl fun hop hc => encSK_eq_iff.mpr ⟨hop, rfl, rfl, hc⟩
  next h => exact .arm Opcode.sqrel h (by decide) rfl rfl fun hop hc => encZ_eq_iff.mpr ⟨hop, hc⟩
  next h => exact .arm Opcode.raopen h (by decide) rfl rfl fun hop hc => encRO_eq_iff.mpr ⟨hop, rfl, rfl, rfl, rfl, hc⟩
  next h => exact .arm Opcode.raclose h (by decide) rfl rfl fun hop hc => encRS_eq_iff.mpr ⟨hop, rfl, hc⟩
  next h => exact .arm Opcode.rafind h (by decide) rfl rfl fun hop hc => encRF_eq_iff.mpr ⟨hop, rfl, rfl, rfl, hc⟩
  next h => exact .arm Opcode.racts h (by decide) rfl rfl fun hop hc => encRW_eq_iff.mpr ⟨hop, rfl, rfl, rfl, hc⟩
  next h => exact .arm Opcode.ractstx h (by decide) rfl rfl fun hop hc => encRW_eq_iff.mpr ⟨hop, rfl, rfl, rfl, hc⟩
  next h => exact .arm Opcode.radpo h (by decide) rfl rfl fun hop hc => encRW_eq_iff.mpr ⟨hop, rfl, rfl, rfl, hc⟩
  next h => exact .arm Opcode.radt h (by decide) rfl rfl fun hop hc => encRD_eq_iff.mpr ⟨hop, rfl, rfl, hc⟩
  next h => exact .arm Opcode.ratx h (by decide) rfl rfl fun hop hc => encRD_eq_iff.mpr ⟨hop, rfl, rfl, hc⟩
  next =>
    refine .unassigned fun row hrow hop => ?_
    have hassigned := op_of_mem_opcodeRows row hrow
    simp only [hop, imp_false] at *
    omega

theorem exists_row_of_decode {w : Word} {i : Instr} (h : decode w = .ok i) : ∃ row ∈ opcodeRows, fieldOp w = row.op ∧
    ReservedZero w row.mask ∧ i.opcode = row.op ∧ i.wellFormed = true ∧ encode i = w := by
  have hends := decode_ends w
  generalize decode w = r at h hends
  cases hends with
  | unassigned => cases h
  | selected hrow hop hi hwf henc =>
    obtain ⟨hzero, rfl⟩ := reservedClear_eq_ok_iff.mp h
    exact ⟨_, hrow, hop, hzero, hi, hwf, henc hzero⟩

/-- No two rows share an opcode. -/
theorem row_eq_of_op_eq {row row' : OpcodeRow} (h : row ∈ opcodeRows) (h' : row' ∈ opcodeRows) (hop : row.op = row'.op) :
    row = row' :=
  List.inj_on_of_nodup_map (f := OpcodeRow.op) (l := opcodeRows) (by decide) h h' hop

theorem decode_of_row {w : Word} {row : OpcodeRow} (hrow : row ∈ opcodeRows) (hop : fieldOp w = row.op) :
    ∃ i, i.opcode = row.op ∧ decode w = reservedClear w row.mask i := by
  have hends := decode_ends w
  generalize decode w = r at hends
  cases hends with
  | unassigned h => exact absurd hop.symm (h row hrow)
  | selected hrow' hop' hi _ _ =>
    obtain rfl := row_eq_of_op_eq hrow' hrow (hop'.symm.trans hop)
    exact ⟨_, hi, rfl⟩

theorem decode_of_unassigned {w : Word} (h : ∀ row ∈ opcodeRows, row.op ≠ fieldOp w) : decode w = .error .illegalOp := by
  have hends := decode_ends w
  generalize decode w = r at hends
  cases hends with
  | unassigned => rfl
  | selected hrow hop _ _ _ => exact absurd hop.symm (h _ hrow)

/-- Settles O2: the fields that the row reads, put back at their places beside zero reserved bits, are the word. -/
theorem encodeOfDecode : Obligations.EncodeOfDecode := by
  unfold Obligations.EncodeOfDecode
  intro w i h
  obtain ⟨_, _, _, _, _, hwf, henc⟩ := exists_row_of_decode h
  exact ⟨hwf, henc⟩

/-! ## The opcode map (R125) -/

/-- A mask fixes the whole opcode, so a word matches a row by its opcode and its reserved bits. -/
theorem matches_row_iff {w : Word} {row : OpcodeRow} (hrow : row ∈ opcodeRows) :
    w &&& row.mask = row.matchWord ↔ fieldOp w = row.op ∧ ReservedZero w row.mask := by
  have hmask : ∀ r ∈ opcodeRows, r.mask.extractLsb' 26 6 = BitVec.allOnes 6 := by decide
  have hlow : 0x03FFFFFF#32 = ones 0 26 := by decide
  rw [eq_comm, ReservedZero, hlow, and_ones_eq_zero_iff]
  refine append_eq_iff.trans ?_
  rw [BitVec.extractLsb'_and, hmask row hrow, BitVec.and_allOnes]

/-- Settles O3: the word decodes by the one row that it matches. -/
theorem wordSelectsRow : Obligations.WordSelectsRow := by
  unfold Obligations.WordSelectsRow
  intro w op
  constructor
  · rintro ⟨i, h, rfl⟩
    obtain ⟨row, hrow, hop, hzero, hi, -, -⟩ := exists_row_of_decode h
    exact ⟨row, hrow, hi.symm, (matches_row_iff hrow).mpr ⟨hop, hzero⟩⟩
  · rintro ⟨row, hrow, rfl, hmatch⟩
    obtain ⟨hop, hzero⟩ := (matches_row_iff hrow).mp hmatch
    obtain ⟨i, hi, h⟩ := decode_of_row hrow hop
    exact ⟨i, h.trans (reservedClear_of_zero hzero), hi⟩

/-! ## Illegal words (R130, R131) -/

theorem hostWrite_cmd {s : State} {off : BitVec 12} (hoff : off.toNat / 4 = 3) (w : Word) :
    hostWrite off w s = runCommand w s :=
  hostWrite_of_regAt ((regAt_of_same_word s.cfg (o := cmdOffset) (by rw [hoff]; rfl)).trans rfl) w

theorem runCommand_of_illegalOp {s : State} {w : Word} (hflt : s.status.flt = false) (h : decode w = .error .illegalOp) :
    runCommand w s = raiseFault (fieldOp w) .illegalOp s := by
  simp [runCommand, hflt, h]

theorem runCommand_of_illegalEnc {s : State} {w : Word} (hflt : s.status.flt = false) (h : decode w = .error .illegalEnc) :
    runCommand w s = raiseFault (fieldOp w) .illegalEnc s := by
  simp [runCommand, hflt, h]

/-- Settles O6: such a word decodes to one of the two decode faults, which the write of CMD takes. -/
theorem illegalWordsFault : Obligations.IllegalWordsFault := by
  unfold Obligations.IllegalWordsFault
  intro s off w hoff hflt op
  have hop : (fieldOp w).toNat = op := by
    rw [toNat_field]
    omega
  rw [hostWrite_cmd hoff]
  constructor
  · intro hunassigned
    refine runCommand_of_illegalOp hflt (decode_of_unassigned fun row hrow hsel => ?_)
    have hassigned := op_of_mem_opcodeRows row hrow
    rw [hsel, hop] at hassigned
    omega
  · intro row hrow hsel hset
    obtain ⟨i, -, h⟩ := decode_of_row hrow (BitVec.eq_of_toNat_eq (hop.trans hsel.symm))
    exact runCommand_of_illegalEnc hflt (h.trans (reservedClear_of_set hset))

/-! ## Worked encodings (R136) -/

/-- Settles O4: each word is the encoding of its command. -/
theorem sampleWordsDecode : Obligations.SampleWordsDecode := by
  unfold Obligations.SampleWordsDecode
  and_intros <;> exact decode_of_encode_eq rfl rfl

end Sys2Proof.Machine
end

section
/-! PROOF. Obligation O18 (spec/40_general.md R150, R152, R154): how a command that completes leaves STATUS and what it keeps,
said once for every command, and the two values that LDI and LDIH load. -/

namespace Sys2Proof.Machine

/-! ## A command that completes -/

/-- Completion writes RC and LASTOP over the STATUS the command began with (R346), which no update before it touched. -/
theorem exec_completed {i : Instr} {s u : State} {op : BitVec 6} {c : ResultCode} (h : exec i s = complete op c u)
    (hu : u.status = s.status) :
    exec i s = .next (u.completed op c) ∧ s.returned (u.completed op c) op c ∧
      s.KeepsOutside (u.completed op c) (i.footprint s) := by
  refine ⟨h, ?_, (exec_ends i s).keepsOutside h⟩
  rw [State.returned, State.completed_status, hu]
  rfl

/-- A command that completes with v loaded into D[a]. -/
theorem exec_loads {i : Instr} {s : State} {op : BitVec 6} {c : ResultCode} {a : DReg} {v : Word}
    (h : exec i s = complete op c (s.setDreg a v)) :
    ∃ t, exec i s = .next t ∧ s.returned t op c ∧ t.dreg a = v ∧ s.KeepsOutside t (i.footprint s) := by
  obtain ⟨hnext, hstatus, hkeep⟩ := exec_completed h (State.setDreg_status ..)
  exact ⟨_, hnext, hstatus, State.setDreg_dreg_same s a v, hkeep⟩

/-! ## The loaded values -/

/-- LDI never sign-extends (R152). -/
theorem ldi_value_toNat (imm : BitVec 16) : (imm.setWidth 32).toNat = imm.toNat :=
  BitVec.toNat_setWidth_of_le (by decide)

/-- LDIH keeps the low half (R154). -/
theorem ldih_value_toNat (imm : BitVec 16) (old : Word) :
    (imm ++ old.extractLsb' 0 16).toNat = imm.toNat * 2 ^ 16 + old.toNat % 2 ^ 16 := by
  rw [toNat_append_sum, toNat_field, Nat.pow_zero, Nat.div_one]

/-- Settles O18: NOP completes at the state it began in, LDI and LDIH with one data register loaded. -/
theorem generalCommands : Obligations.GeneralCommands := by
  unfold Obligations.GeneralCommands
  intro s a imm
  refine ⟨?nop, ?ldi, ?ldih⟩
  case nop => exact ⟨_, exec_completed (i := .nop) rfl rfl⟩
  case ldi =>
    obtain ⟨t, hnext, hstatus, hval, hkeep⟩ := exec_loads (i := .ldi a imm) (s := s) rfl
    exact ⟨t, hnext, hstatus, hval ▸ ldi_value_toNat imm, hkeep⟩
  case ldih =>
    obtain ⟨t, hnext, hstatus, hval, hkeep⟩ := exec_loads (i := .ldih a imm) (s := s) rfl
    exact ⟨t, hnext, hstatus, hval ▸ ldih_value_toNat imm (s.dreg a), hkeep⟩

end Sys2Proof.Machine
end

section
/-! PROOF. Obligations O19 to O24 (spec/41_frame_unpacker.md R172 to R195): what each command of the frame unit does. The bits
of the payload word and of a bit field are said once, and so is a command that completes with one frame register stored. -/

namespace Sys2Proof.Machine

/-! ## How a command of the frame unit ends -/

/-- A check that faults is fault entry with the command's own opcode (R344). -/
theorem faults_of_raiseFault {i : Instr} {c : FaultCause} {s : State} (h : exec i s = raiseFault i.opcode c s) :
    Faults i c s := h

/-- A command that completes with fr stored in F[f]. -/
theorem exec_storesFrame {i : Instr} {s : State} {op : BitVec 6} {c : ResultCode} {f : FrameReg} {fr : Frame}
    (h : exec i s = complete op c (s.setFrame f fr)) :
    ∃ t, exec i s = .next t ∧ s.returned t op c ∧ t.frame f = fr ∧ s.KeepsOutside t (i.footprint s) := by
  obtain ⟨hnext, hstatus, hkeep⟩ := exec_completed h (State.setFrame_status ..)
  exact ⟨_, hnext, hstatus, State.setFrame_frame_same s f fr, hkeep⟩

/-! ## FINIT and FCOPY (R172, R175) -/

theorem idTooWide_iff {fmt : IdFormat} {v : Word} : idTooWide fmt v = true ↔
    (fmt = .std ∧ 0x800 ≤ v.toNat) ∨ (fmt = .ext ∧ 0x20000000 ≤ v.toNat) := by
  cases fmt <;> simp [idTooWide]

/-- An identifier that fits its format has no bit above 28, so FINIT stores all of it. -/
theorem toNat_finitId {fmt : IdFormat} {v : Word} (h : ¬ idTooWide fmt v = true) :
    (v.extractLsb' 0 29).toNat = v.toNat := by
  have hv : v.toNat < 2 ^ 29 := by
    cases fmt <;> simp only [idTooWide, decide_eq_true_eq] at h <;> omega
  rw [toNat_field]
  omega

theorem Frame.byte_of_fill {fr : Frame} {fill : Byte} (h : fr.data = Vector.replicate 8 fill) {k : Nat} (hk : k < 8) :
    fr.byte k = fill := by
  rw [Frame.byte_of_lt fr k hk]
  simp [h]

/-- Settles O19: FINIT's checks in their order, then the frame it stores; FCOPY has no check. -/
theorem framesConstructedAndCopied : Obligations.FramesConstructedAndCopied := by
  unfold Obligations.FramesConstructedAndCopied
  intro f g a fmt len fill s
  refine ⟨fun hlen => ?_, fun hlen hwide => ?_, fun hlen hfits => ?_, ?_⟩
  · exact faults_of_raiseFault (if_pos hlen)
  · exact faults_of_raiseFault ((if_neg (Nat.not_lt.mpr hlen)).trans (if_pos (idTooWide_iff.mpr hwide)))
  · have hid := mt idTooWide_iff.mp hfits
    obtain ⟨t, hnext, hstatus, hframe, hkeep⟩ := exec_storesFrame (i := .finit f a fmt len fill) (s := s)
      ((if_neg (Nat.not_lt.mpr hlen)).trans (if_neg hid))
    refine ⟨t, hnext, hstatus, ?_⟩
    rw [hframe]
    exact ⟨toNat_finitId hid, rfl, Nat.mod_eq_of_lt (Nat.lt_succ_of_le hlen), fun k hk => Frame.byte_of_fill rfl hk, hkeep⟩
  · exact exec_storesFrame (i := .fcopy f g) rfl

/-! ## FGETB and FPUTB (R176 to R182) -/

/-- The value FGETB loads is that of the frame's own bytes. -/
theorem Frame.fieldValue_bytes (fr : Frame) (e : ByteOrder) {off w : Nat} (hw : w ≤ 4) (h : off + w ≤ fr.len.val) :
    (fieldValue e (fr.bytes off w)).toNat = fieldSum e (fun k => fr.byte (off + k)) w := by
  have h8 := fr.len.isLt
  have hl : (fr.bytes off w).length = w := by
    rw [Frame.length_bytes]
    omega
  rw [fieldValue_toNat e _ (hl.trans_le hw), hl]
  exact fieldSum_congr e _ _ w fun k hk => Frame.getD_bytes fr off w k 0 hk (by omega)

/-- The bytes FPUTB stores have D[a]'s value but for the bits that do not fit (R182). -/
theorem Frame.fieldSum_setBytes (fr : Frame) (e : ByteOrder) (v : Word) {off w : Nat} (h : off + w ≤ fr.len.val) :
    fieldSum e (fun k => (fr.setBytes off (fieldBytes e v w)).byte (off + k)) w = v.toNat % 256 ^ w := by
  have h8 := fr.len.isLt
  rw [← fieldSum_fieldBytes e v w]
  refine fieldSum_congr e _ _ w fun k hk => ?_
  rw [Frame.byte_setBytes _ _ _ _ (by omega), length_fieldBytes, if_pos (by omega), Nat.add_sub_cancel_left]

theorem Frame.byte_setBytes_other (fr : Frame) {off k : Nat} {bs : List Byte} (h : k < off ∨ off + bs.length ≤ k) :
    (fr.setBytes off bs).byte k = fr.byte k := by
  by_cases hk : k < 8
  · rw [Frame.byte_setBytes _ _ _ _ hk, if_neg (by omega)]
  · rw [Frame.byte_past _ _ (Nat.not_lt.mp hk), Frame.byte_past _ _ (Nat.not_lt.mp hk)]

/-- Settles O20: FGETB's one check, then the value it loads. -/
theorem fgetbReads : Obligations.FgetbReads := by
  unfold Obligations.FgetbReads
  intro e a f off w s _ hw
  refine ⟨fun hpast => faults_of_raiseFault (if_pos hpast), fun hin => ?_⟩
  obtain ⟨t, hnext, hstatus, hval, hkeep⟩ := exec_loads (i := .fgetb e a f off w) (s := s) (if_neg (Nat.not_lt.mpr hin))
  exact ⟨t, hnext, hstatus, hval ▸ (s.frame f).fieldValue_bytes e hw hin, hkeep⟩

/-- Settles O21: FPUTB's one check, then the bytes it stores and those it leaves. -/
theorem fputbWrites : Obligations.FputbWrites := by
  unfold Obligations.FputbWrites
  intro e f off w a s _ _
  refine ⟨fun hpast => faults_of_raiseFault (if_pos hpast), fun hin => ?_⟩
  obtain ⟨t, hnext, hstatus, hframe, hkeep⟩ := exec_storesFrame (i := .fputb e f off w a) (s := s)
    (if_neg (Nat.not_lt.mpr hin))
  refine ⟨t, hnext, hstatus, ?_⟩
  rw [hframe]
  refine ⟨?_, fun k hk => ?_, rfl, rfl, rfl, hkeep⟩
  · exact (s.frame f).fieldSum_setBytes e (s.dreg a) hin
  · exact Frame.byte_setBytes_other _ (by rwa [length_fieldBytes])

/-! ## The bits of a field -/

/-- A field of a bit vector of any width as a quotient. -/
theorem toNat_extractLsb' {m : Nat} (v : BitVec m) (lo n : Nat) :
    (v.extractLsb' lo n).toNat = v.toNat / 2 ^ lo % 2 ^ n := by
  rw [BitVec.extractLsb'_toNat, Nat.shiftRight_eq_div_pow]

/-- Above its n bits a field reads 0 (R185). -/
theorem getLsbD_getBits {m : Nat} (v : BitVec m) (lo : Nat) {n : Nat} (hn : n ≤ 32) (j : Nat) :
    (getBits v lo n).getLsbD j = (decide (j < n) && v.getLsbD (lo + j)) := by
  rw [getBits, BitVec.getLsbD_setWidth, BitVec.getLsbD_extractLsb']
  by_cases hj : j < n
  · simp [hj, lt_of_lt_of_le hj hn]
  · simp [hj]

/-- The bits below, inside and above a field that was written (R188). -/
theorem getLsbD_putBits {m : Nat} (v : BitVec m) {pos n : Nat} (x : Word) (hpos : pos < m) (hn : n ≤ pos + 1) (j : Nat) :
    (putBits v (pos + 1 - n) n x).getLsbD j =
      if pos + 1 - n ≤ j ∧ j ≤ pos then x.getLsbD (j - (pos + 1 - n)) else v.getLsbD j := by
  simp only [putBits, BitVec.getLsbD_or, BitVec.getLsbD_and, BitVec.getLsbD_not, BitVec.getLsbD_shiftLeft,
    BitVec.getLsbD_setWidth, BitVec.getLsbD_allOnes]
  obtain hlow | hin | hhigh : j < pos + 1 - n ∨ (pos + 1 - n ≤ j ∧ j ≤ pos) ∨ pos < j := by omega
  · simp [hlow, show j < m by omega, Nat.not_le.mpr hlow]
  · simp [hin, show j < m by omega, show j - (pos + 1 - n) < m by omega, show j - (pos + 1 - n) < n by omega,
      Nat.not_lt.mpr hin.1]
  · rw [if_neg (by omega)]
    by_cases hj : j < m
    · simp [hj, show ¬ j - (pos + 1 - n) < n by omega]
    · simp [hj, BitVec.getLsbD_of_ge v j (Nat.not_lt.mp hj)]

/-! ## The payload word (00_scope.md R16) -/

/-- Byte k of a payload word v is v[63-8k : 56-8k]. -/
theorem Frame.byte_setPw (fr : Frame) (v : BitVec 64) {k : Nat} (hk : k < 8) :
    (fr.setPw v).byte k = v.extractLsb' (8 * (7 - k)) 8 := by
  obtain rfl | rfl | rfl | rfl | rfl | rfl | rfl | rfl :
    k = 0 ∨ k = 1 ∨ k = 2 ∨ k = 3 ∨ k = 4 ∨ k = 5 ∨ k = 6 ∨ k = 7 := by omega
  all_goals rfl

theorem Frame.payloadBit_setPw (fr : Frame) (v : BitVec 64) {j : Nat} (hj : j < 64) :
    (fr.setPw v).payloadBit j = v.getLsbD j := by
  rw [Frame.payloadBit, Frame.byte_setPw _ _ (by omega), BitVec.getLsbD_extractLsb']
  simp [Nat.mod_lt, show 8 * (7 - (7 - j / 8)) + j % 8 = j by omega]

/-- The payload word as a sum, byte 0 most significant. -/
theorem Frame.pw_toNat (fr : Frame) : fr.pw.toNat =
    (fr.byte 0).toNat * 2 ^ 56 + (fr.byte 1).toNat * 2 ^ 48 + (fr.byte 2).toNat * 2 ^ 40 + (fr.byte 3).toNat * 2 ^ 32 +
      (fr.byte 4).toNat * 2 ^ 24 + (fr.byte 5).toNat * 2 ^ 16 + (fr.byte 6).toNat * 2 ^ 8 + (fr.byte 7).toNat := by
  simp only [Frame.byte_of_lt, Nat.reduceLT]
  unfold Frame.pw
  refine (toNat_append_sum _ _).trans ?_
  simp only [toNat_append_sum]
  omega

/-- 00_scope.md R16, byte by byte: `Frame.pw` is the inverse of `Frame.setPw`. -/
theorem Frame.extractLsb'_pw (fr : Frame) {k : Nat} (hk : k < 8) : fr.pw.extractLsb' (8 * (7 - k)) 8 = fr.byte k := by
  apply BitVec.eq_of_toNat_eq
  rw [toNat_extractLsb', fr.pw_toNat]
  obtain rfl | rfl | rfl | rfl | rfl | rfl | rfl | rfl :
    k = 0 ∨ k = 1 ∨ k = 2 ∨ k = 3 ∨ k = 4 ∨ k = 5 ∨ k = 6 ∨ k = 7 := by omega
  all_goals omega

/-- The payload word's bits are the payload's, since putting the word back into the frame changes no byte. -/
theorem Frame.getLsbD_pw (fr : Frame) {j : Nat} (hj : j < 64) : fr.pw.getLsbD j = fr.payloadBit j := by
  have hk : 7 - j / 8 < 8 := by omega
  have hbyte : (fr.setPw fr.pw).byte (7 - j / 8) = fr.byte (7 - j / 8) :=
    (fr.byte_setPw fr.pw hk).trans (fr.extractLsb'_pw hk)
  rw [← fr.payloadBit_setPw fr.pw hj, Frame.payloadBit, hbyte, Frame.payloadBit]

/-! ## FGETX and FPUTX (R183 to R188) -/

/-- The model's check of a bit field is R183's and R184's. -/
theorem Frame.bitsOk_iff {fr : Frame} {sp : Space} {pos n : Nat} : fr.bitsOk sp pos n = true ↔ fr.FieldLegal sp pos n := by
  cases sp with
  | payload =>
    simp only [Frame.bitsOk, Frame.payloadBitsOk, Frame.FieldLegal, Bool.and_eq_true, decide_eq_true_eq]
    omega
  | ident =>
    cases h : fr.ext <;> simp [Frame.bitsOk, Frame.identBitsOk, Frame.idWidth, Frame.FieldLegal, h]

/-- The number of bits of a space. -/
def spaceWidth : Space → Nat
  | .payload => 64
  | .ident => 29

/-- A legal field lies inside its space. -/
theorem Frame.FieldLegal.lt_spaceWidth {fr : Frame} {sp : Space} {pos n : Nat} (h : fr.FieldLegal sp pos n)
    (hpos : pos < 64) : pos < spaceWidth sp := by
  cases sp with
  | payload => exact hpos
  | ident =>
    show pos < 29
    obtain ⟨_, hid⟩ := h
    cases he : fr.ext <;> simp only [he] at hid <;> omega

theorem Frame.getLsbD_readBits (fr : Frame) (sp : Space) {pos n : Nat} (hpos : pos < 64) (hn : n ≤ 32) (hle : n ≤ pos + 1)
    (j : Nat) :
    (fr.readBits sp pos n).getLsbD j = (decide (j < n) && fr.spaceBit sp (pos + 1 - n + j)) := by
  cases sp with
  | payload =>
    rw [Frame.readBits, getLsbD_getBits _ _ hn]
    by_cases hj : j < n
    · rw [fr.getLsbD_pw (by omega), Frame.spaceBit]
    · simp [hj]
  | ident => exact getLsbD_getBits fr.id _ hn j

theorem Frame.spaceBit_writeBits (fr : Frame) (sp : Space) {pos n : Nat} (x : Word) (hpos : pos < spaceWidth sp)
    (hle : n ≤ pos + 1) {j : Nat} (hj : j < 64) :
    (fr.writeBits sp pos n x).spaceBit sp j =
      if pos + 1 - n ≤ j ∧ j ≤ pos then x.getLsbD (j - (pos + 1 - n)) else fr.spaceBit sp j := by
  cases sp with
  | payload =>
    rw [Frame.writeBits, Frame.spaceBit, fr.payloadBit_setPw _ hj, getLsbD_putBits fr.pw x (show pos < 64 from hpos) hle,
      fr.getLsbD_pw hj, Frame.spaceBit]
  | ident => exact getLsbD_putBits fr.id x hpos hle j

theorem Frame.writeBits_ext (fr : Frame) (sp : Space) (pos n : Nat) (x : Word) :
    (fr.writeBits sp pos n x).ext = fr.ext := by
  cases sp <;> rfl

theorem Frame.writeBits_len (fr : Frame) (sp : Space) (pos n : Nat) (x : Word) :
    (fr.writeBits sp pos n x).len = fr.len := by
  cases sp <;> rfl

theorem Frame.writeBits_payload_id (fr : Frame) (pos n : Nat) (x : Word) :
    (fr.writeBits .payload pos n x).id = fr.id := rfl

theorem Frame.writeBits_ident_data (fr : Frame) (pos n : Nat) (x : Word) :
    (fr.writeBits .ident pos n x).data = fr.data := rfl

/-- Settles O22: FGETX's one check, then each bit of the value it loads. -/
theorem fgetxReads : Obligations.FgetxReads := by
  unfold Obligations.FgetxReads
  intro a f sp pos n s _ hn
  refine ⟨fun hbad => faults_of_raiseFault (if_neg (mt Frame.bitsOk_iff.mp hbad)), fun hlegal => ?_⟩
  obtain ⟨t, hnext, hstatus, hval, hkeep⟩ := exec_loads (i := .fgetx a f sp pos n) (s := s)
    (if_pos (Frame.bitsOk_iff.mpr hlegal))
  obtain ⟨hle, _⟩ := hlegal
  exact ⟨t, hnext, hstatus, fun j => hval ▸ (s.frame f).getLsbD_readBits sp pos.isLt hn hle j, hkeep⟩

/-- Settles O23: FPUTX's one check, then each bit of its space and what it leaves alone. -/
theorem fputxWrites : Obligations.FputxWrites := by
  unfold Obligations.FputxWrites
  intro f sp pos n a s _ _
  refine ⟨fun hbad => faults_of_raiseFault (if_neg (mt Frame.bitsOk_iff.mp hbad)), fun hlegal => ?_⟩
  obtain ⟨t, hnext, hstatus, hframe, hkeep⟩ := exec_storesFrame (i := .fputx f sp pos n a) (s := s)
    (if_pos (Frame.bitsOk_iff.mpr hlegal))
  have hpos := hlegal.lt_spaceWidth pos.isLt
  obtain ⟨hle, _⟩ := hlegal
  refine ⟨t, hnext, hstatus, ?_⟩
  rw [hframe]
  refine ⟨fun j hj => ?_, ?_, ?_, Frame.writeBits_ext .., Frame.writeBits_len .., hkeep⟩
  · exact (s.frame f).spaceBit_writeBits sp (s.dreg a) hpos hle hj
  · rintro rfl
    exact Frame.writeBits_payload_id ..
  · rintro rfl
    exact Frame.writeBits_ident_data ..

/-! ## FCLASS (R191 to R195) -/

/-- The class of a standard identifier with the server id above it. -/
theorem classWord_toNat_std (c : Config) {fr : Frame} (h : fr.ext = .std) : (classWord c fr).toNat =
    if 0x601 ≤ fr.id.toNat ∧ fr.id.toNat ≤ 0x67F then 1 + 2 ^ 8 * (fr.id.toNat - 0x600)
    else if 0x581 ≤ fr.id.toNat ∧ fr.id.toNat ≤ 0x5FF then 2 + 2 ^ 8 * (fr.id.toNat - 0x580) else 0 := by
  simp only [classWord, classCode, h]
  split
  next hreq =>
    rw [if_pos rfl]
    simp only [toNat_append_sum, BitVec.ofNat_eq_ofNat, BitVec.toNat_ofNat]
    omega
  next =>
    split
    next hrsp =>
      rw [if_neg (by decide), if_pos rfl]
      simp only [toNat_append_sum, BitVec.ofNat_eq_ofNat, BitVec.toNat_ofNat]
      omega
    next => rfl

/-- A byte of an identifier has the value k exactly when its quotient does. -/
theorem idByte_eq_iff {id : BitVec 29} {lo : Nat} {k : Byte} :
    id.extractLsb' lo 8 = k ↔ id.toNat / 2 ^ lo % 256 = k.toNat := by
  rw [← BitVec.toNat_inj, toNat_extractLsb']
  rfl

/-- The class of an extended identifier (R192): the tests of its PF in their order. -/
theorem classCode_toNat_ext (c : Config) (id : BitVec 29) : (classCode c .ext id).toNat =
    if id.toNat / 2 ^ 24 % 4 ≠ 0 then 0
    else if id.toNat / 2 ^ 16 % 256 = 0xEC then 3
    else if id.toNat / 2 ^ 16 % 256 = 0xEB then 4
    else if id.toNat / 2 ^ 16 % 256 = c.etpCmPf.toNat then 5
    else if id.toNat / 2 ^ 16 % 256 = c.etpDtPf.toNat then 6 else 0 := by
  have hpage : id.extractLsb' 24 2 = 0#2 ↔ id.toNat / 2 ^ 24 % 4 = 0 := by
    rw [← BitVec.toNat_inj, toNat_extractLsb']
    rfl
  simp only [classCode, hpage, idByte_eq_iff, ite_not, apply_ite BitVec.toNat]
  rfl

/-- R193's word of an extended identifier of class cls: the addresses above the class, but 0 in class OTHER. -/
def addressedClass (id cls : Nat) : Nat :=
  if cls = 0 then 0 else cls + (2 ^ 8 * (id % 256) + 2 ^ 16 * (id / 2 ^ 8 % 256))

theorem classWord_toNat_ext (c : Config) {fr : Frame} (h : fr.ext = .ext) :
    (classWord c fr).toNat = addressedClass fr.id.toNat (classCode c .ext fr.id).toNat := by
  have hzero : classCode c .ext fr.id = 0 ↔ (classCode c .ext fr.id).toNat = 0 := BitVec.toNat_inj.symm
  simp only [classWord, h, hzero, addressedClass]
  split
  next => rfl
  next =>
    simp only [toNat_append_sum, toNat_extractLsb', BitVec.toNat_ofNat]
    omega

/-- Settles O24: FCLASS has no check; the word it loads, by the format of the frame. -/
theorem fclassClassifies : Obligations.FclassClassifies := by
  unfold Obligations.FclassClassifies
  intro a f s
  obtain ⟨t, hnext, hstatus, hval, hkeep⟩ := exec_loads (i := .fclass a f) (s := s) rfl
  refine ⟨t, hnext, hstatus, hkeep, fun hstd => ?_, fun hext => ?_⟩
  · rw [hval]
    exact classWord_toNat_std s.cfg hstd
  · rw [hval, classWord_toNat_ext s.cfg hext, classCode_toNat_ext]
    simp only [apply_ite (addressedClass (s.frame f).id.toNat)]
    rfl

end Sys2Proof.Machine
end

section
/-! PROOF. Obligations O33 to O41 (spec/42_sequencer.md R200 to R235): what each command of the sequencer
does. A segment's byte 0 and the two halves of a round are said once; a command is then its checks in their order and what it
does once they pass. -/

namespace Sys2Proof.Machine

/-! ## How a command of the sequencer ends -/

/-- A check that refuses is a completion at the state the command began in, with the command's own opcode (R20). -/
theorem refuses_of_complete {i : Instr} {c : ResultCode} {s : State} (h : exec i s = complete i.opcode c s) :
    Refuses i c s := h

theorem sizeIllegal_iff {c : Config} {size : Word} :
    sizeIllegal c size = true ↔ size.toNat = 0 ∨ c.rabCap < size.toNat := by
  simp only [sizeIllegal, Bool.or_eq_true, beq_iff_eq, decide_eq_true_eq]

theorem blksizeIllegal_iff {nb : Word} : blksizeIllegal nb = true ↔ nb.toNat < 1 ∨ 127 < nb.toNat := by
  simp only [blksizeIllegal, Bool.or_eq_true, decide_eq_true_eq]

theorem not_blksizeIllegal {nb : Word} (hlow : 1 ≤ nb.toNat) (hhigh : nb.toNat ≤ 127) : ¬ blksizeIllegal nb = true :=
  mt blksizeIllegal_iff.mp (by omega)

/-- A legal block size fits its seven bits (R204, R226). -/
theorem toNat_blksize {nb : Word} (h : nb.toNat ≤ 127) : (nb.setWidth 7).toNat = nb.toNat := by
  rw [BitVec.toNat_setWidth]
  omega

/-! ## The start of a transfer (R202, R204) -/

/-- A command that completes after SEQ took the slot of q. -/
theorem exec_bindsSlot {i : Instr} {s : State} {op : BitVec 6} {c : ResultCode} {sl : SlotNo} {q : Sequencer}
    (h : exec i s = complete op c ((s.setSeq q).bindSlot sl)) :
    ∃ t, exec i s = .next t ∧ s.returned t op c ∧ t.seq = q ∧ t.slot sl = { s.slot sl with state := .seq } ∧
      s.KeepsOutside t (i.footprint s) := by
  obtain ⟨hnext, hstatus, hkeep⟩ := exec_completed h rfl
  exact ⟨_, hnext, hstatus, rfl, State.setSlot_slot_same _ sl _, hkeep⟩

/-- The checks that SQSEG and SQBLK have in common pass: an existing slot, an idle SEQ, a FREE slot (R202, R204). -/
theorem ite_startable {s : State} {sl : SlotNo} (hsl : sl.toNat < s.cfg.nslot) (hmode : s.seq.mode = .idle)
    (hfree : (s.slot sl).state = .free) {x y z r : Result} :
    (if s.cfg.nslot ≤ sl.toNat then x
      else if s.seq.mode ≠ .idle then y
      else if (s.slot sl).state ≠ .free then z
      else r) = r :=
  (if_neg (Nat.not_le.mpr hsl)).trans <| (if_neg (not_not.mpr hmode)).trans <| if_neg (not_not.mpr hfree)

/-- Settles O33: SQSEG's checks in their order, then the transfer it starts. -/
theorem sqsegStarts : Obligations.SqsegStarts := by
  unfold Obligations.SqsegStarts
  intro sl a dir role u s
  refine ⟨fun hsl => ?_, fun hsl hmode => ?_, fun hsl hmode hfree => ?_, fun hsl hmode hfree hdir hu => ?_,
    fun hsl hmode hfree hbad => ?_, fun hsl hmode hfree hknown hgood => ?_⟩
  · exact faults_of_raiseFault (if_pos hsl)
  · exact faults_of_raiseFault <| (if_neg (Nat.not_le.mpr hsl)).trans <| if_pos hmode
  · exact faults_of_raiseFault <| (if_neg (Nat.not_le.mpr hsl)).trans <| (if_neg (not_not.mpr hmode)).trans <|
      if_pos hfree
  · exact faults_of_raiseFault <| (ite_startable hsl hmode hfree).trans <| if_pos ⟨hdir, hu⟩
  · have hparam : ¬ (dir = .tx ∧ u = true) := fun h => by simp [hbad.1] at h
    exact refuses_of_complete <| (ite_startable hsl hmode hfree).trans <| (if_neg hparam).trans <|
      if_pos ⟨hbad.1, sizeIllegal_iff.mpr hbad.2⟩
  · have hparam : ¬ (dir = .tx ∧ u = true) := fun h => by simp [hknown h.1] at h
    have hsize : ¬ (u = false ∧ sizeIllegal s.cfg (s.dreg a) = true) := fun h => hgood ⟨h.1, sizeIllegal_iff.mp h.2⟩
    exact exec_bindsSlot (i := .sqseg sl a dir role u) <| (ite_startable hsl hmode hfree).trans <|
      (if_neg hparam).trans <| if_neg hsize

/-- Settles O34: SQBLK's checks in their order, then the transfer it starts. -/
theorem sqblkStarts : Obligations.SqblkStarts := by
  unfold Obligations.SqblkStarts
  intro sl a b dir s
  refine ⟨fun hsl => ?_, fun hsl hmode => ?_, fun hsl hmode hfree => ?_, fun ⟨hsl, hmode, hfree⟩ hnb => ?_,
    fun ⟨hsl, hmode, hfree⟩ hlow hhigh hbad => ?_, fun ⟨hsl, hmode, hfree⟩ hlow hhigh hgood => ?_⟩
  · exact faults_of_raiseFault (if_pos hsl)
  · exact faults_of_raiseFault <| (if_neg (Nat.not_le.mpr hsl)).trans <| if_pos hmode
  · exact faults_of_raiseFault <| (if_neg (Nat.not_le.mpr hsl)).trans <| (if_neg (not_not.mpr hmode)).trans <|
      if_pos hfree
  · exact faults_of_raiseFault <| (ite_startable hsl hmode hfree).trans <| if_pos (blksizeIllegal_iff.mpr hnb)
  · exact refuses_of_complete <| (ite_startable hsl hmode hfree).trans <| (if_neg (not_blksizeIllegal hlow hhigh)).trans <|
      if_pos (sizeIllegal_iff.mpr hbad)
  · obtain ⟨t, hnext, hstatus, hseq, hbound, hkeep⟩ := exec_bindsSlot (i := .sqblk sl a b dir) <|
      (ite_startable hsl hmode hfree).trans <| (if_neg (not_blksizeIllegal hlow hhigh)).trans <|
      if_neg (mt sizeIllegal_iff.mp hgood)
    refine ⟨t, hnext, hstatus, ?_, ?_, hbound, hkeep⟩
    · rw [hseq]
      exact toNat_blksize hhigh
    · rw [hseq]

/-! ## Byte 0 of a segment (R206, R218) -/

theorem toNat_flagBit (b : Bool) : (flagBit b).toNat = b.toNat := by cases b <;> rfl

theorem toNat_segByte0 (cs : BitVec 3) (t : Bool) (n : BitVec 3) (c : Bool) :
    (segByte0 cs t n c).toNat = 32 * cs.toNat + 16 * t.toNat + 2 * n.toNat + c.toNat := by
  unfold segByte0
  simp only [toNat_append_sum, toNat_flagBit]
  omega

theorem toNat_blkByte0 (last : Bool) (seq : BitVec 7) : (blkByte0 last seq).toNat = 128 * last.toNat + seq.toNat := by
  unfold blkByte0
  rw [toNat_append_sum, toNat_flagBit]
  omega

/-- A bit, such as a flag of byte 0, as a remainder. -/
theorem getLsbD_eq_iff {m : Nat} (v : BitVec m) (k : Nat) (t : Bool) :
    v.getLsbD k = t ↔ v.toNat / 2 ^ k % 2 = t.toNat := by
  rw [BitVec.getLsbD, Nat.testBit_eq_decide_div_mod_eq]
  cases t <;> simp

theorem toNat_beq (m n : Nat) : (m == n).toNat = if m = n then 1 else 0 := by
  by_cases h : m = n <;> simp [h]

/-- The count of a segment's missing data bytes fits its three bits. -/
theorem toNat_missing (n : Nat) : (BitVec.ofNat 3 (7 - n)).toNat = 7 - n := by
  rw [BitVec.toNat_ofNat]
  omega

/-- The command specifier of a segment frame (R206). -/
theorem segCs_eq_iff {h : Byte} {cs : BitVec 3} : h.extractLsb' 5 3 = cs ↔ h.toNat / 32 = cs.toNat := by
  rw [← BitVec.toNat_inj, toNat_extractLsb']
  omega

/-- A frame built from bytes of a slot's buffer. -/
theorem State.built_of_buffer (s : State) (f : FrameReg) (sl : SlotNo) (head : Byte) (off : Nat) {n : Nat} (hn : n ≤ 7) :
    (s.frame f).Built ((s.frame f).produced (frameBytes head ((s.buf sl).readN off n) 0x00)) head.toNat n
      (fun k => s.byteAt sl (off + k)) 0x00 := by
  have hlen := Memory.length_readN (s.buf sl) off n
  have hbuilt := (s.frame f).built_produced head ((s.buf sl).readN off n) 0x00 (fun k => s.byteAt sl (off + k))
    (hlen.trans_le hn) fun k hk => Memory.getD_readN _ _ _ _ _ (hk.trans_eq hlen)
  rwa [hlen] at hbuilt

/-! ## The two halves of a round (R207, R210, R211) -/

/-- The code of a round's end: COMPLETE with the final segment behind it (R210). -/
def Sequencer.roundCode (q : Sequencer) : ResultCode := if q.fin then .complete else .ok

/-- The code SQSEND completes with: a SERVER's frame ends the round (R207). -/
def Sequencer.sendCode (q : Sequencer) : ResultCode :=
  match q.role with
  | .server => q.roundCode
  | .client => .ok

/-- The code SQRECV completes with: a CLIENT's frame ends the round (R211). -/
def Sequencer.recvCode (q : Sequencer) : ResultCode :=
  match q.role with
  | .client => q.roundCode
  | .server => .ok

theorem endRound_eq_complete (op : BitVec 6) (s : State) :
    endRound op s = complete op s.seq.roundCode (s.setSeq s.seq.endRound) := by
  cases hf : s.seq.fin <;> simp [endRound, Sequencer.endRound, Sequencer.roundCode, hf]

theorem sendHalf_eq_complete (s : State) :
    sendHalf s = complete Opcode.sqsend s.seq.sendCode (s.setSeq s.seq.afterSend) := by
  cases hr : s.seq.role with
  | server =>
    simp only [sendHalf, Sequencer.sendCode, Sequencer.afterSend, endRound_eq_complete, hr]
    rfl
  | client => simp only [sendHalf, Sequencer.sendCode, Sequencer.afterSend, hr]

theorem recvHalf_eq_complete (s : State) :
    recvHalf s = complete Opcode.sqrecv s.seq.recvCode (s.setSeq s.seq.afterRecv) := by
  cases hr : s.seq.role with
  | client =>
    simp only [recvHalf, Sequencer.recvCode, Sequencer.afterRecv, endRound_eq_complete, hr]
    rfl
  | server => simp only [recvHalf, Sequencer.recvCode, Sequencer.afterRecv, hr]

section
variable (q : Sequencer)

/-- The end of a half moves no data. -/
theorem Sequencer.afterSend_data :
    q.afterSend.done = q.done ∧ q.afterSend.lastn = q.lastn ∧ q.afterSend.fin = q.fin := by
  unfold Sequencer.afterSend
  cases q.role <;> exact ⟨rfl, rfl, rfl⟩

theorem Sequencer.afterRecv_data : q.afterRecv.done = q.done ∧ q.afterRecv.lastn = q.lastn ∧
    q.afterRecv.fin = q.fin ∧ q.afterRecv.total = q.total := by
  unfold Sequencer.afterRecv
  cases q.role <;> exact ⟨rfl, rfl, rfl, rfl⟩

end

/-- SQSEND once its frame stands in v. -/
theorem exec_sqsend_half {f : FrameReg} {cs : BitVec 3} {s v : State} (h : exec (.sqsend f cs) s = sendHalf v)
    (hv : v.status = s.status) :
    ∃ t, exec (.sqsend f cs) s = .next t ∧ s.KeepsOutside t { frames := [f], seq := true } ∧
      t.frame f = v.frame f ∧ t.seq = v.seq.afterSend ∧ s.returned t 0x22 v.seq.sendCode := by
  obtain ⟨hnext, hstatus, hkeep⟩ := exec_completed (h.trans (sendHalf_eq_complete v)) hv
  exact ⟨_, hnext, hkeep, rfl, rfl, hstatus⟩

/-! ## SQSEND (R207) -/

theorem not_sendOutOfTurn_iff {q : Sequencer} : ¬ sendOutOfTurn q = true ↔
    q.mode = .seg ∧ (q.role = .client → q.sent = false) ∧ (q.role = .server → q.rcvd = true) := by
  simp [sendOutOfTurn, and_assoc]

/-- The bytes that a send's next segment takes lie inside the slot's buffer. -/
theorem State.SeqOk.inBuf_send {s : State} (h : s.SeqOk) (hm : s.seq.mode = .seg) (hd : s.seq.dir = .tx) :
    s.inBuf s.seq.slot s.seq.done.toNat (chunkLen s.seq.total.toNat s.seq.done.toNat) :=
  h.inBuf_chunk ((h.seg hm).known ((h.seg hm).send_known hd)).2 (h.seg hm).total_le

/-- The frame of a send (R206, R207). -/
def State.sendFrame (s : State) (f : FrameReg) (cs : BitVec 3) : Frame :=
  let nd := chunkLen s.seq.total.toNat s.seq.done.toNat
  (s.frame f).produced (frameBytes
    (segByte0 cs s.seq.tog (BitVec.ofNat 3 (7 - nd)) (s.seq.done.toNat + nd == s.seq.total.toNat))
    ((s.buf s.seq.slot).readN s.seq.done.toNat nd) 0x00)

/-- The frame of a receive's request (R206, R207). -/
def State.requestFrame (s : State) (f : FrameReg) (cs : BitVec 3) : Frame :=
  (s.frame f).produced (frameBytes (segByte0 cs s.seq.tog 0 false) [] 0x00)

section
variable {f : FrameReg} {cs : BitVec 3} {s : State}

theorem exec_sqsend_tx (hok : s.SeqOk) (hturn : ¬ sendOutOfTurn s.seq = true) (hd : s.seq.dir = .tx) :
    exec (.sqsend f cs) s = sendHalf ((s.setFrame f (s.sendFrame f cs)).setSeq s.seq.sentSegment) := by
  have hin := hok.inBuf_send (not_sendOutOfTurn_iff.mp hturn).1 hd
  refine (if_neg hturn).trans ?_
  rw [hd]
  dsimp only
  rw [State.memRead_of_inBuf hin]
  rfl

theorem exec_sqsend_rx (hturn : ¬ sendOutOfTurn s.seq = true) (hd : s.seq.dir = .rx) :
    exec (.sqsend f cs) s = sendHalf (s.setFrame f (s.requestFrame f cs)) := by
  refine (if_neg hturn).trans ?_
  rw [hd]
  rfl

/-- The segment of a send carries the next bytes of the slot behind its byte 0. -/
theorem State.built_sendFrame (f : FrameReg) (cs : BitVec 3) (s : State) {nd : Nat}
    (hnd : nd = chunkLen s.seq.total.toNat s.seq.done.toNat) :
    (s.frame f).Built (s.sendFrame f cs)
      (32 * cs.toNat + 16 * s.seq.tog.toNat + 2 * (7 - nd) + if s.seq.done.toNat + nd = s.seq.total.toNat then 1 else 0) nd
      (fun k => s.byteAt s.seq.slot (s.seq.done.toNat + k)) 0x00 := by
  subst hnd
  have hbuilt := s.built_of_buffer f s.seq.slot
    (segByte0 cs s.seq.tog (BitVec.ofNat 3 (7 - chunkLen s.seq.total.toNat s.seq.done.toNat))
      (s.seq.done.toNat + chunkLen s.seq.total.toNat s.seq.done.toNat == s.seq.total.toNat))
    s.seq.done.toNat (chunkLen_le_seven s.seq.total.toNat s.seq.done.toNat)
  rwa [toNat_segByte0, toNat_missing, toNat_beq] at hbuilt

theorem State.built_requestFrame (f : FrameReg) (cs : BitVec 3) (s : State) :
    (s.frame f).Built (s.requestFrame f cs) (32 * cs.toNat + 16 * s.seq.tog.toNat) 0 (fun _ => 0x00) 0x00 := by
  have hbuilt := (s.frame f).built_produced (segByte0 cs s.seq.tog 0 false) [] 0x00 (fun _ => 0x00) (Nat.zero_le 7)
    (fun _ _ => rfl)
  rwa [toNat_segByte0] at hbuilt

/-- What SQSEND moves, by direction: the frame and SEQ's data at the point where only the end of its half is left. -/
theorem exec_sqsend_moves (f : FrameReg) (cs : BitVec 3) {s : State} (hok : s.SeqOk)
    (hturn : ¬ sendOutOfTurn s.seq = true) :
    ∃ v, exec (.sqsend f cs) s = sendHalf v ∧ v.status = s.status ∧
      (∃ d l e, v.seq = { s.seq with done := d, lastn := l, fin := e }) ∧
      (s.seq.dir = .tx → v.frame f = s.sendFrame f cs ∧ v.seq = s.seq.sentSegment) ∧
      (s.seq.dir = .rx → v.frame f = s.requestFrame f cs ∧ v.seq = s.seq) := by
  cases hd : s.seq.dir with
  | tx =>
    exact ⟨_, exec_sqsend_tx hok hturn hd, State.setFrame_status .., ⟨_, _, _, rfl⟩,
      fun _ => ⟨State.setFrame_frame_same .., rfl⟩, nofun⟩
  | rx =>
    exact ⟨_, exec_sqsend_rx hturn hd, State.setFrame_status .., ⟨_, _, _, State.setFrame_seq ..⟩, nofun,
      fun _ => ⟨State.setFrame_frame_same .., State.setFrame_seq ..⟩⟩

end

/-- Settles O35: SQSEND out of turn; in turn, the frame and the data by direction, the end of the round by role. -/
theorem sqsendBuildsSegment : Obligations.SqsendBuildsSegment := by
  unfold Obligations.SqsendBuildsSegment
  intro f cs s hc hok
  refine ⟨fun hturn => ?_, fun hturn => ?_⟩
  · exact faults_of_raiseFault (if_pos (not_not.mp (mt not_sendOutOfTurn_iff.mp hturn)))
  obtain ⟨v, hexec, hstatus, ⟨d, l, e, hseq⟩, htx, hrx⟩ :=
    exec_sqsend_moves f cs hok (not_sendOutOfTurn_iff.mpr hturn)
  obtain ⟨t, hnext, hkeep, hframe, hafter, hret⟩ := exec_sqsend_half hexec hstatus
  obtain ⟨hdone, hlastn, hfin⟩ := v.seq.afterSend_data
  refine ⟨t, hnext, hkeep, fun hd => ?tx, fun hd => ?rx, fun hr => ?client, fun hr => ?server⟩
  case tx =>
    obtain ⟨hv, hq⟩ := htx hd
    obtain ⟨hseg, -, -⟩ := hturn
    have hin := hok.inBuf_send hseg hd
    rw [hframe, hv, hafter, hdone, hlastn, hfin, hq]
    exact ⟨s.built_sendFrame f cs rfl, toNat_ofNat_of_le_rabCap hc hin.2, toNat_missing _, rfl⟩
  case rx =>
    obtain ⟨hv, hq⟩ := hrx hd
    rw [hframe, hv, hafter, hdone, hlastn, hfin, hq]
    exact ⟨s.built_requestFrame f cs, rfl, rfl, rfl⟩
  case client =>
    have hvr : v.seq.role = .client := by rw [hseq, hr]
    refine ⟨?_, ?_⟩
    · simpa [Sequencer.sendCode, hvr] using hret
    · rw [hafter, Sequencer.afterSend_of_client hvr, hseq]
  case server =>
    have hvr : v.seq.role = .server := by rw [hseq, hr]
    refine ⟨?_, ?_⟩
    · rw [hafter, hfin]
      simpa [Sequencer.sendCode, Sequencer.roundCode, hvr] using hret
    · rw [hafter, Sequencer.afterSend_of_server hvr, hseq]
      simp [Sequencer.endRound, hturn.1]

/-! ## SQRECV (R211) -/

theorem not_recvOutOfTurn_iff {q : Sequencer} : ¬ recvOutOfTurn q = true ↔
    q.mode = .seg ∧ (q.role = .client → q.sent = true) ∧ (q.role = .server → q.rcvd = false) := by
  simp [recvOutOfTurn, and_assoc]

/-- SQRECV once its frame is taken into v. -/
theorem exec_sqrecv_half {f : FrameReg} {cs : BitVec 3} {s v : State} (h : exec (.sqrecv f cs) s = recvHalf v)
    (hv : v.status = s.status) :
    ∃ t, exec (.sqrecv f cs) s = .next t ∧ s.KeepsOutside t { seq := true, bytes := s.recvRange f } ∧
      (∀ x o, t.byteAt x o = v.byteAt x o) ∧ t.seq = v.seq.afterRecv ∧ s.returned t 0x23 v.seq.recvCode := by
  obtain ⟨hnext, hstatus, hkeep⟩ := exec_completed (h.trans (recvHalf_eq_complete v)) hv
  exact ⟨_, hnext, hkeep, fun _ _ => rfl, rfl, hstatus⟩

/-- The data bytes a segment frame carries: 7 - n (R206). -/
def Frame.segLen (fr : Frame) : Nat := 7 - (fr.data[0].extractLsb' 1 3).toNat

/-- The final-segment flag c of a segment frame (R206). -/
def Frame.segFinal (fr : Frame) : Bool := fr.data[0].getLsbD 0

theorem Frame.toNat_segMissing (fr : Frame) : (fr.data[0].extractLsb' 1 3).toNat = (fr.byte 0).toNat / 2 % 8 := by
  rw [toNat_extractLsb', Frame.byte_zero]
  rfl

theorem Frame.segLen_eq (fr : Frame) : fr.segLen = 7 - (fr.byte 0).toNat / 2 % 8 := by
  rw [Frame.segLen, Frame.toNat_segMissing]

theorem Frame.segFinal_iff (fr : Frame) : fr.segFinal = true ↔ (fr.byte 0).toNat % 2 = 1 := by
  rw [Frame.segFinal, getLsbD_eq_iff, Frame.byte_zero, Nat.pow_zero, Nat.div_one]
  rfl

/-- The checks of SQRECV that do not depend on the direction have passed (R211). -/
structure State.RecvOk (s : State) (f : FrameReg) (cs : BitVec 3) : Prop where
  turn : ¬ recvOutOfTurn s.seq = true
  len : ¬ (s.frame f).len ≠ 8
  spec : ¬ (s.frame f).data[0].extractLsb' 5 3 ≠ cs
  toggle : ¬ (s.frame f).data[0].getLsbD 4 ≠ s.seq.tog

section
variable {f : FrameReg} {cs : BitVec 3} {s : State}

theorem State.recvOk_of_byte0 (hturn : ¬ recvOutOfTurn s.seq = true) (hlen : (s.frame f).len = 8)
    (hcs : ((s.frame f).byte 0).toNat / 32 = cs.toNat)
    (htog : ((s.frame f).byte 0).toNat / 16 % 2 = s.seq.tog.toNat) : s.RecvOk f cs where
  turn := hturn
  len := not_not.mpr hlen
  spec := not_not.mpr (segCs_eq_iff.mpr ((s.frame f).byte_zero ▸ hcs))
  toggle := not_not.mpr ((getLsbD_eq_iff _ _ _).mpr ((s.frame f).byte_zero ▸ htog))

theorem State.RecvOk.ite_checks (h : s.RecvOk f cs) {x y z w r : Result} :
    (if recvOutOfTurn s.seq then x
      else if (s.frame f).len ≠ 8 then y
      else if (s.frame f).data[0].extractLsb' 5 3 ≠ cs then z
      else if (s.frame f).data[0].getLsbD 4 ≠ s.seq.tog then w
      else r) = r :=
  (if_neg h.turn).trans <| (if_neg h.len).trans <| (if_neg h.spec).trans <| if_neg h.toggle

theorem State.RecvOk.exec_tx (h : s.RecvOk f cs) (hd : s.seq.dir = .tx) : exec (.sqrecv f cs) s = recvHalf s := by
  refine h.ite_checks.trans ?_
  rw [hd]

theorem State.RecvOk.exec_overrun (h : s.RecvOk f cs) (hd : s.seq.dir = .rx)
    (hlim : s.seq.limit s.cfg < s.seq.done.toNat + (s.frame f).segLen) :
    exec (.sqrecv f cs) s = complete Opcode.sqrecv .overrun s := by
  refine h.ite_checks.trans ?_
  rw [hd]
  exact if_pos hlim

theorem State.RecvOk.exec_lengthErr (h : s.RecvOk f cs) (hd : s.seq.dir = .rx)
    (hlim : s.seq.done.toNat + (s.frame f).segLen ≤ s.seq.limit s.cfg)
    (hshort : (s.frame f).segFinal = true ∧ s.seq.unk = false ∧
      s.seq.done.toNat + (s.frame f).segLen ≠ s.seq.total.toNat) :
    exec (.sqrecv f cs) s = complete Opcode.sqrecv .lengthErr s := by
  refine h.ite_checks.trans ?_
  rw [hd]
  exact (if_neg (Nat.not_lt.mpr hlim)).trans <| if_pos hshort

theorem State.RecvOk.exec_rx (h : s.RecvOk f cs) (hd : s.seq.dir = .rx)
    (hlim : s.seq.done.toNat + (s.frame f).segLen ≤ s.seq.limit s.cfg)
    (hlen : ¬ ((s.frame f).segFinal = true ∧ s.seq.unk = false ∧
      s.seq.done.toNat + (s.frame f).segLen ≠ s.seq.total.toNat))
    (hin : s.inBuf s.seq.slot s.seq.done.toNat (s.frame f).segLen) :
    exec (.sqrecv f cs) s = recvHalf ((s.setBuf s.seq.slot
      ((s.buf s.seq.slot).writeN s.seq.done.toNat ((s.frame f).bytes 1 (s.frame f).segLen))).setSeq
      (s.seq.tookSegment (s.frame f).segLen (s.frame f).segFinal ((s.frame f).data[0].extractLsb' 1 3))) := by
  have hbytes := (s.frame f).length_bytes_one (Nat.sub_le 7 ((s.frame f).data[0].extractLsb' 1 3).toNat)
  refine h.ite_checks.trans ?_
  rw [hd]
  refine (if_neg (Nat.not_lt.mpr hlim)).trans <| (if_neg hlen).trans ?_
  rw [State.memWrite_of_inBuf (hbytes.symm ▸ hin)]
  rfl

end

/-- Settles O36: SQRECV's fault out of turn and its refusals in their order. -/
theorem sqrecvRefuses : Obligations.SqrecvRefuses := by
  unfold Obligations.SqrecvRefuses
  intro f cs s
  refine ⟨fun hturn => ?_, fun hturn hlen => ?_, fun hturn hlen hcs => ?_, fun hturn hlen hcs htog => ?_,
    fun ⟨hturn, hlen, hcs, htog⟩ hd hover => ?_, fun ⟨hturn, hlen, hcs, htog⟩ hd hshort hfin hknown => ?_⟩
  · exact faults_of_raiseFault (if_pos (not_not.mp (mt not_recvOutOfTurn_iff.mp hturn)))
  all_goals have hin := not_recvOutOfTurn_iff.mpr hturn
  · exact refuses_of_complete <| (if_neg hin).trans <| if_pos hlen
  · refine refuses_of_complete <| (if_neg hin).trans <| (if_neg (not_not.mpr hlen)).trans <| if_pos fun h => hcs ?_
    exact (s.frame f).byte_zero ▸ segCs_eq_iff.mp h
  · have hspec := segCs_eq_iff.mpr ((s.frame f).byte_zero ▸ hcs)
    refine refuses_of_complete <| (if_neg hin).trans <| (if_neg (not_not.mpr hlen)).trans <|
      (if_neg (not_not.mpr hspec)).trans <| if_pos fun h => htog ?_
    exact (s.frame f).byte_zero ▸ (getLsbD_eq_iff _ _ _).mp h
  all_goals have hrecv := State.recvOk_of_byte0 hin hlen hcs htog
  all_goals have hnd := (s.frame f).segLen_eq
  · exact refuses_of_complete (hrecv.exec_overrun hd (hnd ▸ hover))
  · rw [← hnd] at hshort
    have hlimit : s.seq.limit s.cfg = s.seq.total.toNat := by simp [Sequencer.limit, hknown]
    exact refuses_of_complete (hrecv.exec_lengthErr hd (hlimit ▸ hshort.le)
      ⟨(s.frame f).segFinal_iff.mpr hfin, hknown, hshort.ne⟩)

/-- What SQRECV takes, by direction: the bytes and SEQ's data at the point where only the end of its half is left. -/
theorem State.RecvOk.exec_takes {f : FrameReg} {cs : BitVec 3} {s : State} (h : s.RecvOk f cs) (hok : s.SeqOk)
    (hlim : s.seq.dir = .rx → s.seq.done.toNat + (s.frame f).segLen ≤ s.seq.limit s.cfg)
    (hlen : s.seq.dir = .rx → (s.frame f).segFinal = true → s.seq.unk = false →
      s.seq.done.toNat + (s.frame f).segLen = s.seq.total.toNat) :
    ∃ v, exec (.sqrecv f cs) s = recvHalf v ∧ v.status = s.status ∧
      (∃ d l e n, v.seq = { s.seq with done := d, lastn := l, fin := e, total := n }) ∧
      (s.seq.dir = .tx → v.seq = s.seq) ∧
      (s.seq.dir = .rx →
        v = (s.setBuf s.seq.slot
          ((s.buf s.seq.slot).writeN s.seq.done.toNat ((s.frame f).bytes 1 (s.frame f).segLen))).setSeq
            (s.seq.tookSegment (s.frame f).segLen (s.frame f).segFinal ((s.frame f).data[0].extractLsb' 1 3))) := by
  cases hd : s.seq.dir with
  | tx => exact ⟨s, h.exec_tx hd, rfl, ⟨_, _, _, _, rfl⟩, fun _ => rfl, nofun⟩
  | rx =>
    obtain ⟨hseg, -, -⟩ := not_recvOutOfTurn_iff.mp h.turn
    have hin : s.inBuf s.seq.slot s.seq.done.toNat (s.frame f).segLen :=
      ⟨hok.slot, (hlim hd).trans (hok.seg hseg).roundOk.limit_le⟩
    have hexec := h.exec_rx hd (hlim hd) (fun ⟨hfin, hknown, hne⟩ => hne (hlen hd hfin hknown)) hin
    exact ⟨_, hexec, rfl, ⟨_, _, _, _, rfl⟩, nofun, fun _ => rfl⟩

theorem State.recvRange_tx {s : State} (f : FrameReg) (hd : s.seq.dir = .tx) : s.recvRange f = [] := by
  simp only [State.recvRange, hd]

theorem State.recvRange_rx {s : State} (f : FrameReg) (hd : s.seq.dir = .rx) :
    s.recvRange f = [{ sl := s.seq.slot, off := s.seq.done.toNat, n := (s.frame f).segLen }] := by
  simp only [State.recvRange, hd]
  rfl

/-- The data bytes of a segment stand in the slot once they are stored in canonical memory. -/
theorem State.MemOk.byteAt_segment {s : State} (h : s.MemOk) (sl : SlotNo) (off : Nat) (fr : Frame) {n k : Nat}
    (hn : n ≤ 7) (hk : k < n) :
    (s.setBuf sl ((s.buf sl).writeN off (fr.bytes 1 n))).byteAt sl (off + k) = fr.byte (1 + k) := by
  rw [State.byteAt_stored s sl off _ k (h.canonical sl) (hk.trans_eq (fr.length_bytes_one hn).symm)]
  exact fr.getD_bytes 1 n k 0x00 hk (by omega)

/-- Settles O37: the data SQRECV takes by direction, the end of the round by role. -/
theorem sqrecvTakesSegment : Obligations.SqrecvTakesSegment := by
  unfold Obligations.SqrecvTakesSegment
  intro f cs s hc hmem hok i q turn h nd limit hturn hlen hcs htog hlim hfinal
  have hnd : (s.frame f).segLen = nd := (s.frame f).segLen_eq
  have hflag : (s.frame f).segFinal = true ↔ h % 2 = 1 := (s.frame f).segFinal_iff
  have hrecv := State.recvOk_of_byte0 (not_recvOutOfTurn_iff.mpr hturn) hlen hcs htog
  have hlim' (hd : s.seq.dir = .rx) : s.seq.done.toNat + (s.frame f).segLen ≤ s.seq.limit s.cfg := hnd ▸ hlim hd
  obtain ⟨v, hexec, hstatus, ⟨d, l, e, n, hseq⟩, htx, hrx⟩ := hrecv.exec_takes hok hlim' fun hd hfin hknown =>
    hnd ▸ hfinal hd (hflag.mp hfin) hknown
  obtain ⟨t, hnext, hkeep, hbytes, hafter, hret⟩ := exec_sqrecv_half hexec hstatus
  obtain ⟨hdone, hlastn, hfin, htotal⟩ := v.seq.afterRecv_data
  refine ⟨t, hnext, fun hd => ?tx, fun hd => ?rx, fun hr => ?server, fun hr => ?client⟩
  case tx =>
    rw [State.recvRange_tx f hd] at hkeep
    rw [hafter, hdone, hlastn, hfin, htotal, htx hd]
    exact ⟨hkeep, rfl, rfl, rfl, rfl⟩
  case rx =>
    rw [State.recvRange_rx f hd, hnd] at hkeep
    obtain ⟨hseg, -, -⟩ := hturn
    have hcap := (hlim' hd).trans (hok.seg hseg).roundOk.limit_le
    rw [hafter, hdone, hlastn, hfin, htotal]
    obtain rfl := hrx hd
    refine ⟨hkeep, fun k hk => ?_, ?_, (s.frame f).toNat_segMissing, ?_, ?_⟩
    · rw [hbytes, ← hmem.byteAt_segment _ _ _ (Nat.sub_le 7 _) (hnd ▸ hk)]
      rfl
    · exact (toNat_ofNat_of_le_rabCap hc hcap).trans (by rw [hnd])
    · exact Bool.eq_iff_iff.mpr (hflag.trans decide_eq_true_iff.symm)
    · show (if ((s.frame f).segFinal && s.seq.unk) = true then _ else _) = _
      simp only [Bool.and_eq_true, hflag]
      rfl
  case server =>
    have hvr : v.seq.role = .server := by rw [hseq, hr]
    refine ⟨?_, ?_⟩
    · simpa [Sequencer.recvCode, hvr] using hret
    · rw [hafter, Sequencer.afterRecv_of_server hvr, hseq]
  case client =>
    have hvr : v.seq.role = .client := by rw [hseq, hr]
    refine ⟨?_, ?_⟩
    · rw [hafter, hfin]
      simpa [Sequencer.recvCode, Sequencer.roundCode, hvr] using hret
    · rw [hafter, Sequencer.afterRecv_of_client hvr, hseq]
      obtain ⟨hseg, -, -⟩ : s.seq.mode = .seg ∧ _ := hturn
      simp only [Sequencer.endRound, hseg]
      rfl

/-! ## A segment of a block (R217 to R222) -/

/-- The position after the next segment, which no word cuts short. -/
theorem Sequencer.BlkOk.toNat_nextSegment_done {c : Config} {q : Sequencer} (h : q.BlkOk c) (hc : c.wf) (n : BitVec 7)
    (ends : Bool) : (q.nextSegment n ends).done.toNat = q.done.toNat + chunkLen q.total.toNat q.done.toNat :=
  toNat_ofNat_of_le_rabCap hc ((add_chunkLen_le h.done_le).trans h.total_le)

theorem not_outOfBlock_iff {q : Sequencer} {d : Dir} :
    ¬ (q.mode ≠ .blk ∨ q.dir ≠ d ∨ q.bend = true) ↔ q.mode = .blk ∧ q.dir = d ∧ q.bend = false := by
  simp

/-- The next segment is the last of the block or of the payload (R217). -/
def Sequencer.sendEndsBlock (q : Sequencer) : Bool :=
  q.seqno.toNat + 1 == q.blksize.toNat || q.done.toNat + chunkLen q.total.toNat q.done.toNat == q.total.toNat

theorem Sequencer.sendEndsBlock_iff (q : Sequencer) : q.sendEndsBlock = true ↔
    q.seqno.toNat + 1 = q.blksize.toNat ∨ q.done.toNat + chunkLen q.total.toNat q.done.toNat = q.total.toNat := by
  simp [Sequencer.sendEndsBlock]

/-- The last flag of the next segment (R219). -/
def State.lastSegment (s : State) : Bool :=
  lastFlag s.cfg.blkLastRule (s.seq.seqno.toNat + 1 == s.seq.blksize.toNat)
    (s.seq.done.toNat + chunkLen s.seq.total.toNat s.seq.done.toNat == s.seq.total.toNat)

theorem State.lastSegment_iff (s : State) : s.lastSegment = true ↔
    s.seq.done.toNat + chunkLen s.seq.total.toNat s.seq.done.toNat = s.seq.total.toNat ∨
      (s.cfg.blkLastRule = .perBlock ∧ s.seq.seqno.toNat + 1 = s.seq.blksize.toNat) := by
  unfold State.lastSegment
  cases s.cfg.blkLastRule with
  | perBlock => simp [lastFlag, or_comm]
  | payloadOnly => simp [lastFlag]

/-- The frame of a block's next segment (R217, R218). -/
def State.blockFrame (s : State) (f : FrameReg) : Frame :=
  (s.frame f).produced (frameBytes (blkByte0 s.lastSegment (BitVec.ofNat 7 (s.seq.seqno.toNat + 1)))
    ((s.buf s.seq.slot).readN s.seq.done.toNat (chunkLen s.seq.total.toNat s.seq.done.toNat)) 0x00)

section
variable {f : FrameReg} {s : State}

theorem State.built_blockFrame (hseq : (BitVec.ofNat 7 (s.seq.seqno.toNat + 1)).toNat = s.seq.seqno.toNat + 1) :
    (s.frame f).Built (s.blockFrame f) (128 * s.lastSegment.toNat + (s.seq.seqno.toNat + 1))
      (chunkLen s.seq.total.toNat s.seq.done.toNat) (fun k => s.byteAt s.seq.slot (s.seq.done.toNat + k)) 0x00 := by
  have hbuilt := s.built_of_buffer f s.seq.slot (blkByte0 s.lastSegment (BitVec.ofNat 7 (s.seq.seqno.toNat + 1)))
    s.seq.done.toNat (chunkLen_le_seven s.seq.total.toNat s.seq.done.toNat)
  rwa [toNat_blkByte0, hseq] at hbuilt

/-- SQBTX inside a block of a send. -/
theorem exec_sqbtx_inBlock (hok : s.SeqOk) (hm : s.seq.mode = .blk) (hd : s.seq.dir = .tx) (hb : s.seq.bend = false) :
    ∃ t, exec (.sqbtx f) s = .next t ∧ s.KeepsOutside t { frames := [f], seq := true } ∧ t.frame f = s.blockFrame f ∧
      t.seq = s.seq.nextSegment (BitVec.ofNat 7 (s.seq.seqno.toNat + 1)) s.seq.sendEndsBlock ∧
      s.returned t 0x24 (if t.seq.bend then .blockEnd else .ok) := by
  have hin := hok.inBuf_chunk (hok.blk hm).done_le (hok.blk hm).total_le
  have hexec : exec (.sqbtx f) s = complete Opcode.sqbtx (if s.seq.sendEndsBlock then .blockEnd else .ok)
      ((s.setFrame f (s.blockFrame f)).setSeq
        (s.seq.nextSegment (BitVec.ofNat 7 (s.seq.seqno.toNat + 1)) s.seq.sendEndsBlock)) := by
    refine (if_neg (not_outOfBlock_iff.mpr ⟨hm, hd, hb⟩)).trans ?_
    dsimp only
    rw [State.memRead_of_inBuf hin]
    rfl
  obtain ⟨hnext, hstatus, hkeep⟩ := exec_completed hexec (State.setFrame_status ..)
  exact ⟨_, hnext, hkeep, State.setFrame_frame_same .., rfl, hstatus⟩

end

/-- Settles O38: SQBTX outside a block of a send, then the segment it builds. -/
theorem sqbtxBuildsSegment : Obligations.SqbtxBuildsSegment := by
  unfold Obligations.SqbtxBuildsSegment
  intro f s hc hok
  refine ⟨fun hready => ?_, fun ⟨hm, hd, hb⟩ => ?_⟩
  · exact faults_of_raiseFault (if_pos (not_not.mp (mt not_outOfBlock_iff.mp hready)))
  have hblk := hok.blk hm
  have hroom := (hblk.running hb).1
  have hnum : (BitVec.ofNat 7 (s.seq.seqno.toNat + 1)).toNat = s.seq.seqno.toNat + 1 :=
    Nat.mod_eq_of_lt (lt_of_le_of_lt hroom s.seq.blksize.isLt)
  have hbuilt := State.built_blockFrame (f := f) hnum
  obtain ⟨t, hnext, hkeep, hframe, hseq, hret⟩ := exec_sqbtx_inBlock (f := f) hok hm hd hb
  refine ⟨t, hnext, hkeep, fun hlast => ?_, fun hlast => ?_, ?_, ?_, ?_, ?_, ?_, hret⟩
  · have hflag : s.lastSegment = true := s.lastSegment_iff.mpr hlast
    rw [hflag] at hbuilt
    exact hframe ▸ hbuilt
  · have hflag : s.lastSegment = false := Bool.eq_false_iff.mpr (mt s.lastSegment_iff.mp hlast)
    rw [hflag, Bool.toNat_false, Nat.mul_zero, Nat.zero_add] at hbuilt
    exact hframe ▸ hbuilt
  all_goals rw [hseq]
  · exact hnum
  · exact hblk.toNat_nextSegment_done hc _ _
  · exact toNat_missing _
  · exact s.seq.sendEndsBlock_iff
  · rfl

/-- The sequence number of a block segment (R218). -/
theorem Frame.toNat_blkSeqno (fr : Frame) : (fr.data[0].extractLsb' 0 7).toNat = (fr.byte 0).toNat % 128 := by
  rw [toNat_extractLsb', Frame.byte_zero, Nat.pow_zero, Nat.div_one]
  rfl

/-- The last flag of a block segment (R218). -/
theorem Frame.blkLast_iff (fr : Frame) : fr.data[0].getLsbD 7 = true ↔ 128 ≤ (fr.byte 0).toNat := by
  rw [getLsbD_eq_iff, Frame.byte_zero, Bool.toNat_true]
  omega

/-- A segment taken from fr is the last of the block or of the payload (R221). -/
def Sequencer.takeEndsBlock (q : Sequencer) (fr : Frame) : Bool :=
  fr.data[0].getLsbD 7 || fr.data[0].extractLsb' 0 7 == q.blksize ||
    q.done.toNat + chunkLen q.total.toNat q.done.toNat == q.total.toNat

theorem Sequencer.takeEndsBlock_iff (q : Sequencer) (fr : Frame) : q.takeEndsBlock fr = true ↔
    128 ≤ (fr.byte 0).toNat ∨ (fr.byte 0).toNat % 128 = q.blksize.toNat ∨
      q.done.toNat + chunkLen q.total.toNat q.done.toNat = q.total.toNat := by
  simp only [Sequencer.takeEndsBlock, Bool.or_eq_true, beq_iff_eq, fr.blkLast_iff, ← BitVec.toNat_inj,
    fr.toNat_blkSeqno, or_assoc]

/-- SQBRX inside a block of a receive, for the segment that is next. -/
theorem exec_sqbrx_next {f : FrameReg} {s : State} (hok : s.SeqOk) (hm : s.seq.mode = .blk) (hd : s.seq.dir = .rx)
    (hb : s.seq.bend = false) (hlen : (s.frame f).len = 8)
    (hn : ((s.frame f).data[0].extractLsb' 0 7).toNat = s.seq.seqno.toNat + 1) :
    ∃ t, exec (.sqbrx f) s = .next t ∧
      s.KeepsOutside t
        { seq := true
          bytes := [{ sl := s.seq.slot, off := s.seq.done.toNat, n := chunkLen s.seq.total.toNat s.seq.done.toNat }] } ∧
      (∀ x o, t.byteAt x o = (s.setBuf s.seq.slot ((s.buf s.seq.slot).writeN s.seq.done.toNat
        ((s.frame f).bytes 1 (chunkLen s.seq.total.toNat s.seq.done.toNat)))).byteAt x o) ∧
      t.seq = s.seq.nextSegment ((s.frame f).data[0].extractLsb' 0 7) (s.seq.takeEndsBlock (s.frame f)) ∧
      s.returned t 0x25 (if t.seq.bend then .blockEnd else .ok) := by
  have hbytes := (s.frame f).length_bytes_one (chunkLen_le_seven s.seq.total.toNat s.seq.done.toNat)
  have hin := hok.inBuf_chunk (hok.blk hm).done_le (hok.blk hm).total_le
  have hexec : exec (.sqbrx f) s =
      complete Opcode.sqbrx (if s.seq.takeEndsBlock (s.frame f) then .blockEnd else .ok)
        ((s.setBuf s.seq.slot ((s.buf s.seq.slot).writeN s.seq.done.toNat
          ((s.frame f).bytes 1 (chunkLen s.seq.total.toNat s.seq.done.toNat)))).setSeq
          (s.seq.nextSegment ((s.frame f).data[0].extractLsb' 0 7) (s.seq.takeEndsBlock (s.frame f)))) := by
    refine (if_neg (not_outOfBlock_iff.mpr ⟨hm, hd, hb⟩)).trans <| (if_neg (not_not.mpr hlen)).trans <|
      (if_neg (by omega)).trans <| (if_neg (by omega)).trans <| (if_neg (by omega)).trans ?_
    dsimp only
    rw [State.memWrite_of_inBuf (hbytes.symm ▸ hin)]
    rfl
  obtain ⟨hnext, hstatus, hkeep⟩ := exec_completed hexec rfl
  exact ⟨_, hnext, hkeep, fun _ _ => rfl, rfl, hstatus⟩

/-- Settles O39: SQBRX's fault and refusals in their order, then the segment it takes. -/
theorem sqbrxTakesSegment : Obligations.SqbrxTakesSegment := by
  unfold Obligations.SqbrxTakesSegment
  intro f s hc hmem hok
  have hnum := (s.frame f).toNat_blkSeqno
  refine ⟨fun hready => ?_, fun hready hbad => ?_, fun hready hlen hpos hdup => ?_, fun hready hlen hgap => ?_,
    fun ⟨hm, hd, hb⟩ hlen hn => ?_⟩
  · exact faults_of_raiseFault (if_pos (not_not.mp (mt not_outOfBlock_iff.mp hready)))
  · refine refuses_of_complete <| (if_neg (not_outOfBlock_iff.mpr hready)).trans ?_
    by_cases hlen : (s.frame f).len = 8
    · exact (if_neg (not_not.mpr hlen)).trans <| if_pos (hnum.trans (hbad.resolve_left (not_not.mpr hlen)))
    · exact if_pos hlen
  · exact refuses_of_complete <| (if_neg (not_outOfBlock_iff.mpr hready)).trans <| (if_neg (not_not.mpr hlen)).trans <|
      (if_neg (by omega)).trans <| if_pos (hnum.trans_le hdup)
  · exact refuses_of_complete <| (if_neg (not_outOfBlock_iff.mpr hready)).trans <| (if_neg (not_not.mpr hlen)).trans <|
      (if_neg (by omega)).trans <| (if_neg (by omega)).trans <| if_pos (hgap.trans_eq hnum.symm)
  · obtain ⟨t, hnext, hkeep, hbytes, hseq, hret⟩ := exec_sqbrx_next hok hm hd hb hlen (hnum.trans hn)
    refine ⟨t, hnext, hkeep, fun k hk => ?_, ?_, ?_, ?_, ?_, ?_, hret⟩
    · rw [hbytes]
      exact hmem.byteAt_segment _ _ _ (chunkLen_le_seven _ _) hk
    all_goals rw [hseq]
    · exact hnum
    · exact (hok.blk hm).toNat_nextSegment_done hc _ _
    · exact toNat_missing _
    · exact s.seq.takeEndsBlock_iff (s.frame f)
    · rfl

/-! ## The acknowledgement of a block (R226, R227) -/

/-- The position after an acknowledgement, which no word cuts short. -/
theorem Sequencer.BlkOk.toNat_ackedDone {c : Config} {q : Sequencer} (h : q.BlkOk c) (hc : c.wf) (ack : Nat) :
    (ackedDone q ack).toNat =
      if q.dir = .tx ∧ ack < q.seqno.toNat then q.bstart.toNat + 7 * ack else q.done.toNat := by
  unfold ackedDone
  split
  next hlost =>
    have hlast := h.last_short (by omega)
    have htotal := h.total_le
    exact toNat_ofNat_of_le_rabCap hc (by omega)
  · rfl

/-- A send that lost segments has payload left, so at the payload's end the acknowledgement moves nothing. -/
theorem Sequencer.BlkOk.ackedDone_eq_done {c : Config} {q : Sequencer} (h : q.BlkOk c) (hc : c.wf) {ack : Nat}
    (hend : ackedDone q ack = q.total) : ackedDone q ack = q.done := by
  have hpos := h.toNat_ackedDone hc ack
  rw [hend] at hpos
  refine if_neg fun hlost => ?_
  rw [if_pos hlost] at hpos
  have hlast := h.last_short (by omega)
  omega

/-- A command that completes after it set SEQ to q. -/
theorem exec_setsSeq {i : Instr} {s : State} {op : BitVec 6} {c : ResultCode} {q : Sequencer}
    (h : exec i s = complete op c (s.setSeq q)) :
    ∃ t, exec i s = .next t ∧ s.KeepsOutside t (i.footprint s) ∧ s.returned t op c ∧ t.seq = q := by
  obtain ⟨hnext, hstatus, hkeep⟩ := exec_completed h rfl
  exact ⟨_, hnext, hkeep, hstatus, rfl⟩

/-- Settles O40: SQBACK's checks in their order, then the end of the transfer or its next block. -/
theorem sqbackAcknowledges : Obligations.SqbackAcknowledges := by
  unfold Obligations.SqbackAcknowledges
  intro a b s hc hok
  refine ⟨fun hturn => ?_, fun ⟨hm, hturn⟩ hnb => ?_, fun ⟨hm, hturn⟩ hlow hhigh hdir hack => ?_,
    fun ⟨hm, hturn⟩ hlow hhigh hack => ?_⟩
  · by_cases hm : s.seq.mode = .blk
    · have hrun : s.seq.dir = .tx ∧ s.seq.bend = false := by simpa [hm] using hturn
      exact faults_of_raiseFault <| (if_neg (not_not.mpr hm)).trans <| if_pos hrun
    · exact faults_of_raiseFault (if_pos hm)
  all_goals have hmode : ¬ s.seq.mode ≠ .blk := not_not.mpr hm
  all_goals have hrun : ¬ (s.seq.dir = .tx ∧ s.seq.bend = false) := fun h => by simp [hturn h.1] at h
  · exact faults_of_raiseFault <| (if_neg hmode).trans <| (if_neg hrun).trans <| if_pos (blksizeIllegal_iff.mpr hnb)
  all_goals have hblksize := not_blksizeIllegal hlow hhigh
  · exact refuses_of_complete <| (if_neg hmode).trans <| (if_neg hrun).trans <| (if_neg hblksize).trans <|
      if_pos ⟨hdir, hack⟩
  have hblk := hok.blk hm
  have hknown : ¬ (s.seq.dir = .tx ∧ s.seq.seqno.toNat < (s.dreg a).toNat) := fun h => Nat.not_lt.mpr (hack h.1) h.2
  have hnext := hblk.toNat_ackedDone hc (s.dreg a).toNat
  by_cases hend : ackedDone s.seq (s.dreg a).toNat = s.seq.total
  · obtain ⟨t, hexec, hkeep, hstatus, hseq⟩ := exec_setsSeq (i := .sqback a b) <| (if_neg hmode).trans <|
      (if_neg hrun).trans <| (if_neg hblksize).trans <| (if_neg hknown).trans <| if_pos hend
    refine ⟨t, hexec, hkeep, fun _ => ⟨hstatus, ?_⟩, fun hne => absurd (hend ▸ hnext).symm hne⟩
    rw [hseq, hblk.ackedDone_eq_done hc hend]
  · obtain ⟨t, hexec, hkeep, hstatus, hseq⟩ := exec_setsSeq (i := .sqback a b) <| (if_neg hmode).trans <|
      (if_neg hrun).trans <| (if_neg hblksize).trans <| (if_neg hknown).trans <| if_neg hend
    refine ⟨t, hexec, hkeep, fun he => absurd (BitVec.eq_of_toNat_eq (hnext.trans he)) hend,
      fun _ => ⟨hstatus, ?_, ?_, ?_⟩⟩
    · rw [hseq]
      exact hnext
    · rw [hseq]
      exact toNat_blksize hhigh
    · rw [hseq]

/-! ## The end of a transfer (R234) -/

/-- Settles O41: SQREL with SEQ idle, then the release with and without the scrub of R235. -/
theorem sqrelReleases : Obligations.SqrelReleases := by
  unfold Obligations.SqrelReleases
  intro s hok
  refine ⟨fun hidle => ?_, fun hbusy => ?_⟩
  · obtain ⟨hnext, hstatus, hkeep⟩ := exec_completed (i := .sqrel) (if_pos hidle) rfl
    have hfoot : Instr.sqrel.footprint s = {} := if_pos hidle
    exact ⟨_, hnext, hstatus, hfoot ▸ hkeep⟩
  have hfoot : Instr.sqrel.footprint s = { seq := true, slots := [s.seq.slot], bytes := s.relRange } := if_neg hbusy
  by_cases hrx : s.seq.dir = .rx ∧ s.seq.mode ≠ .complete
  · have hexec : exec .sqrel s = complete Opcode.sqrel .ok
        (s.setBuf s.seq.slot ((s.buf s.seq.slot).clear s.cfg.rabCap)).release := by
      refine (if_neg hbusy).trans <| (if_pos hrx).trans ?_
      rw [State.scrub_of_lt hok.slot]
    obtain ⟨hnext, hstatus, hkeep⟩ := exec_completed hexec rfl
    refine ⟨_, hnext, hstatus, rfl, State.setSlot_slot_same .., fun _ _ => ⟨?_, fun o ho => ?_⟩, fun hdone => ?_⟩
    · have hrange : s.relRange = [{ sl := s.seq.slot, off := 0, n := s.cfg.rabCap }] := if_pos hrx
      exact hrange ▸ hfoot ▸ hkeep
    · exact (State.byteAt_scrubbed s s.seq.slot s.seq.slot _ o).trans (if_pos ⟨rfl, ho⟩)
    · obtain htx | hcomplete := hdone
      · simp [hrx.1] at htx
      · exact absurd hcomplete hrx.2
  · obtain ⟨hnext, hstatus, hkeep⟩ := exec_completed (i := .sqrel) ((if_neg hbusy).trans (if_neg hrx)) rfl
    have hrange : s.relRange = [] := if_neg hrx
    exact ⟨_, hnext, hstatus, rfl, State.setSlot_slot_same .., fun hdir hmode => absurd ⟨hdir, hmode⟩ hrx,
      fun _ => hrange ▸ hfoot ▸ hkeep⟩

end Sys2Proof.Machine
end

section
/-! PROOF. Obligations O42 to O50 and O56 (spec/43_reassembly.md R250 to R282): what each command of the reassembly buffer
does. The fields of a packed operand, the search for a key, the checks of a received packet and the passing of a packet are
said once; a command is then its checks in their order and what it does once they pass. -/

namespace Sys2Proof.Machine

/-! ## How a command of the reassembly buffer ends -/

/-- A command that completes after it gave slot sl the record r. -/
theorem exec_storesSlot {i : Instr} {s : State} {op : BitVec 6} {c : ResultCode} {sl : SlotNo} {r : Slot}
    (h : exec i s = complete op c (s.setSlot sl r)) :
    ∃ t, exec i s = .next t ∧ s.returned t op c ∧ t.slot sl = r ∧ s.KeepsOutside t (i.footprint s) := by
  obtain ⟨hnext, hstatus, hkeep⟩ := exec_completed h rfl
  exact ⟨_, hnext, hstatus, State.setSlot_slot_same s sl r, hkeep⟩

/-- A number below NSLOT is the number of a slot. -/
theorem toNat_ofNat_of_lt_nslot {c : Config} {n : Nat} (hc : c.wf) (h : n < c.nslot) : (BitVec.ofNat 3 n).toNat = n := by
  obtain ⟨-, hmax, -⟩ := hc
  exact Nat.mod_eq_of_lt (lt_of_lt_of_le h hmax)

/-! ## Sessions and their keys (R250, R257) -/

/-- Settles O56: RAOPEN gives no slot a key that another one has, and no other update gives a slot a key. -/
theorem sessionKeysStayDistinct : Obligations.SessionKeysStayDistinct := fun _ _ hs hk h =>
  (keptByUpdates_keysOk.step ⟨hs, hk⟩ h).2

/-- A session whose addresses have these values. -/
theorem Slot.addressed_iff (r : Slot) (sa da : Byte) : r.addressed sa da = true ↔
    (r.state = .opened ∨ r.state = .done) ∧ r.sa.toNat = sa.toNat ∧ r.da.toNat = da.toNat := by
  simp only [Slot.addressed, Bool.and_eq_true, beq_iff_eq, Slot.keyed_iff, BitVec.toNat_inj, and_assoc]

/-! ## RAOPEN (R254 to R258) -/

section
variable (p : Word)

theorem toNat_keySa : (keySa p).toNat = p.toNat % 256 := by
  rw [keySa, toNat_field, Nat.pow_zero, Nat.div_one]
  rfl

theorem toNat_keyDa : (keyDa p).toNat = p.toNat / 2 ^ 8 % 256 := toNat_field p 8 8

theorem toNat_pgnBits : (pgnBits p).toNat = p.toNat % 2 ^ 24 := by
  rw [pgnBits, toNat_field, Nat.pow_zero, Nat.div_one]

theorem toNat_prmMode_bits : (prmMode p).bits.toNat = p.toNat / 2 ^ 16 % 4 := by
  have hlt : (p.extractLsb' 16 2).toNat < 4 := BitVec.isLt _
  have hfield : (p.extractLsb' 16 2).toNat = p.toNat / 2 ^ 16 % 4 := toNat_field p 16 2
  rw [← hfield, prmMode]
  obtain h | h | h | h : (p.extractLsb' 16 2).toNat = 0 ∨ (p.extractLsb' 16 2).toNat = 1 ∨
    (p.extractLsb' 16 2).toNat = 2 ∨ (p.extractLsb' 16 2).toNat = 3 := by omega
  all_goals rw [h]; rfl

/-- The broadcast modes are the even ones (R254). -/
theorem SlotMode.bam_iff (m : SlotMode) : m.bam = true ↔ m.bits.toNat % 2 = 0 := by cases m <;> decide

theorem prmMode_bam_iff : (prmMode p).bam = true ↔ p.toNat / 2 ^ 16 % 2 = 0 := by
  rw [SlotMode.bam_iff, toNat_prmMode_bits]
  omega

theorem toNat_prmProto_bit : (prmProto p).bit.toNat = p.toNat / 2 ^ 18 % 2 := by
  rw [prmProto]
  split
  next h => exact ((getLsbD_eq_iff p 18 true).mp h).symm
  next h => exact ((getLsbD_eq_iff p 18 false).mp (Bool.eq_false_iff.mpr h)).symm

theorem prmProto_eq_etp_iff : prmProto p = .etp ↔ p.toNat / 2 ^ 18 % 2 = 1 := by
  rw [← toNat_prmProto_bit]
  cases prmProto p <;> decide

/-- The size limit of the protocol an operand selects (R256). -/
theorem maxSize_prmProto (c : Config) :
    maxSize c (prmProto p) = if p.toNat / 2 ^ 18 % 2 = 1 then c.rabCap else 1785 := by
  simp only [← prmProto_eq_etp_iff]
  cases prmProto p <;> rfl

end

/-- The reserved bits of RAOPEN's operands are those above 24 and 19 bits. -/
theorem raParamsClear_iff (pg prm : Word) : raParamsClear pg prm = true ↔ pg.toNat < 2 ^ 24 ∧ prm.toNat < 2 ^ 19 := by
  have hpg := pg.isLt
  have hprm := prm.isLt
  simp only [raParamsClear, Bool.and_eq_true, beq_iff_eq, ← BitVec.toNat_inj, toNat_field, BitVec.toNat_ofNat]
  omega

/-- The checks that RAOPEN makes of its operands before it looks at the slot, as R254 and R255 word them. -/
theorem raParams_good_iff (pg prm : Word) :
    (raParamsClear pg prm = true ∧ ¬ (prmProto prm = .etp ∧ (prmMode prm).bam = true)) ↔
      ¬ (2 ^ 24 ≤ pg.toNat ∨ 2 ^ 19 ≤ prm.toNat ∨ (prm.toNat / 2 ^ 18 % 2 = 1 ∧ prm.toNat / 2 ^ 16 % 2 = 0)) := by
  rw [raParamsClear_iff, prmProto_eq_etp_iff, prmMode_bam_iff]
  omega

/-- KEY_BUSY's condition as R254 and R257 word it. -/
theorem State.keyBusy_iff {s : State} (hc : s.cfg.wf) (sl : SlotNo) (sa da : Byte) (pgn : BitVec 24) :
    s.keyBusy sl sa da pgn = true ↔ ∃ x : SlotNo, x ≠ sl ∧ x.toNat < s.cfg.nslot ∧
      ((s.slot x).state = .opened ∨ (s.slot x).state = .done) ∧ (s.slot x).sa.toNat = sa.toNat ∧
      (s.slot x).da.toNat = da.toNat ∧ (s.slot x).pgn.toNat = pgn.toNat := by
  simp only [State.keyBusy, List.any_eq_true, Bool.and_eq_true, bne_iff_ne, beq_iff_eq, Slot.addressed_iff, State.mem_slotNos]
  constructor
  · rintro ⟨n, hn, ⟨hne, hstate, hsa, hda⟩, hpgn⟩
    have hx := toNat_ofNat_of_lt_nslot hc hn
    refine ⟨BitVec.ofNat 3 n, ?_, hx.symm ▸ hn, hstate, hsa, hda, congrArg BitVec.toNat hpgn⟩
    rintro rfl
    exact hne hx.symm
  · rintro ⟨x, hne, hn, hstate, hsa, hda, hpgn⟩
    refine ⟨x.toNat, hn, ?_⟩
    rw [BitVec.ofNat_toNat, BitVec.setWidth_eq]
    exact ⟨⟨fun e => hne (BitVec.eq_of_toNat_eq e), hstate, hsa, hda⟩, BitVec.eq_of_toNat_eq hpgn⟩

/-- RAOPEN once its operands and its slot pass (R254). -/
theorem exec_raopen_openable {sl : SlotNo} {a b c : DReg} {s : State} (hsl : sl.toNat < s.cfg.nslot)
    (hprm : raParamsClear (s.dreg b) (s.dreg c) = true ∧
      ¬ (prmProto (s.dreg c) = .etp ∧ (prmMode (s.dreg c)).bam = true))
    (hfree : (s.slot sl).state = .free) :
    exec (.raopen sl a b c) s =
      if (s.dreg a).toNat = 0 ∨ maxSize s.cfg (prmProto (s.dreg c)) < (s.dreg a).toNat then
        complete Opcode.raopen .sizeErr s
      else if s.keyBusy sl (keySa (s.dreg c)) (keyDa (s.dreg c)) (pgnBits (s.dreg b)) then
        complete Opcode.raopen .keyBusy s
      else complete Opcode.raopen .ok (s.setSlot sl (Slot.fresh (prmMode (s.dreg c)) (prmProto (s.dreg c))
        (keySa (s.dreg c)) (keyDa (s.dreg c)) (pgnBits (s.dreg b)) (s.dreg a))) := by
  obtain ⟨hclear, hmode⟩ := hprm
  exact (if_neg (Nat.not_le.mpr hsl)).trans <| (if_neg (by simp [hclear])).trans <| (if_neg hmode).trans <|
    if_neg (not_not.mpr hfree)

/-- npkt is the least number of packets of 7 bytes that hold the size (R251). -/
theorem Slot.SessionOk.npkt_least {c : Config} {r : Slot} (h : r.SessionOk c) :
    r.size.toNat ≤ 7 * r.npkt.toNat ∧ 7 * r.npkt.toNat < r.size.toNat + 7 := by
  rw [h.npkt]
  unfold packetCount
  omega

/-- Settles O42: RAOPEN's checks in their order, then the record it gives the slot. -/
theorem raopenOpens : Obligations.RaopenOpens := by
  unfold Obligations.RaopenOpens
  intro sl a b c s hc
  refine ⟨fun hsl => ?_, fun hsl hbad => ?_, fun hsl hgood hbusy => ?_, fun ⟨hsl, hgood, hfree⟩ hsize => ?_,
    fun ⟨hsl, hgood, hfree⟩ hsize hbusy => ?_, fun ⟨hsl, hgood, hfree⟩ hsize hbusy => ?_⟩
  · exact faults_of_raiseFault (if_pos hsl)
  · refine faults_of_raiseFault <| (if_neg (Nat.not_le.mpr hsl)).trans ?_
    by_cases hclear : raParamsClear (s.dreg b) (s.dreg c) = true
    · have hmode := not_and.mp (mt (raParams_good_iff _ _).mp (not_not.mpr hbad)) hclear
      exact (if_neg (by simp [hclear])).trans <| if_pos (not_not.mp hmode)
    · exact if_pos (Bool.eq_false_iff.mpr hclear)
  all_goals have hprm := (raParams_good_iff _ _).mpr hgood
  · obtain ⟨hclear, hmode⟩ := hprm
    exact faults_of_raiseFault <| (if_neg (Nat.not_le.mpr hsl)).trans <| (if_neg (by simp [hclear])).trans <|
      (if_neg hmode).trans <| if_pos hbusy
  all_goals have hexec := exec_raopen_openable (a := a) hsl hprm hfree
  all_goals rw [← maxSize_prmProto] at hsize
  · exact refuses_of_complete (hexec.trans (if_pos hsize))
  all_goals
    have hpgn : (pgnBits (s.dreg b)).toNat = (s.dreg b).toNat := by
      rw [toNat_pgnBits]
      omega
    have hkey := s.keyBusy_iff hc sl (keySa (s.dreg c)) (keyDa (s.dreg c)) (pgnBits (s.dreg b))
    rw [toNat_keySa, toNat_keyDa, hpgn] at hkey
  · exact refuses_of_complete (hexec.trans <| (if_neg hsize).trans <| if_pos (hkey.mpr hbusy))
  · obtain ⟨t, hnext, hstatus, hslot, hkeep⟩ := exec_storesSlot <|
      hexec.trans <| (if_neg hsize).trans <| if_neg (mt hkey.mp hbusy)
    have hproto : (prmProto (s.dreg c)).bit.toNat = (s.dreg c).toNat / 2 ^ 18 :=
      (toNat_prmProto_bit _).trans (by omega)
    obtain ⟨-, hmode⟩ := hprm
    obtain ⟨hlow, hhigh⟩ := (Slot.sessionOk_fresh (sa := keySa (s.dreg c)) (da := keyDa (s.dreg c))
      (pgn := pgnBits (s.dreg b)) hc hmode hsize).npkt_least
    refine ⟨t, hnext, hstatus, hkeep, ?_⟩
    rw [hslot]
    exact ⟨rfl, toNat_prmMode_bits _, hproto, rfl, toNat_keySa _, toNat_keyDa _, hpgn, rfl, hlow, hhigh, rfl, rfl, rfl, rfl,
      rfl⟩

/-! ## RACLOSE (R260, R261) -/

/-- A command that completes at the state it began in keeps everything but STATUS. -/
theorem exec_completesUnchanged {i : Instr} {s : State} {op : BitVec 6} {c : ResultCode} (h : exec i s = complete op c s)
    (p : Footprint) : ∃ t, exec i s = .next t ∧ s.returned t op c ∧ s.KeepsOutside t p :=
  ⟨_, h, rfl, State.keeps_completed s op c p⟩

/-- A session has a key, so its slot is neither FREE nor the sequencer's. -/
theorem Slot.state_of_session {r : Slot} (h : r.state = .opened ∨ r.state = .done) : r.state ≠ .free ∧ r.state ≠ .seq := by
  obtain h | h := h <;> simp [h]

/-- Settles O43: RACLOSE by the state of the slot, with and without the scrub of R261. -/
theorem racloseCloses : Obligations.RacloseCloses := by
  unfold Obligations.RacloseCloses
  intro sl s
  refine ⟨fun hsl => ?_, fun hsl hseq => ?_, fun hsl hfree => ?_, fun hsl hsession => ?_⟩
  · exact faults_of_raiseFault (if_pos hsl)
  · exact faults_of_raiseFault <| (if_neg (Nat.not_le.mpr hsl)).trans <| (if_neg (by simp [hseq])).trans <| if_pos hseq
  · exact exec_completesUnchanged (i := .raclose sl) ((if_neg (Nat.not_le.mpr hsl)).trans (if_pos hfree)) {}
  obtain ⟨hfree, hseq⟩ := Slot.state_of_session hsession
  by_cases hr : (s.slot sl).receiving = true
  · have hexec : exec (.raclose sl) s = complete Opcode.raclose .ok
        ((s.setBuf sl ((s.buf sl).clear s.cfg.rabCap)).setSlot sl Slot.free) := by
      refine (if_neg (Nat.not_le.mpr hsl)).trans <| (if_neg hfree).trans <| (if_neg hseq).trans <| (if_pos hr).trans ?_
      rw [State.scrub_of_lt hsl]
    obtain ⟨hnext, hstatus, hkeep⟩ := exec_completed hexec rfl
    have hrange : s.closeRange sl = [{ sl := sl, off := 0, n := s.cfg.rabCap }] := if_pos hr
    refine ⟨_, hnext, hstatus, State.setSlot_slot_same .., fun _ => ⟨hrange ▸ hkeep, fun o ho => ?_⟩, fun hdone => ?_⟩
    · exact (State.byteAt_scrubbed s sl sl _ o).trans (if_pos ⟨rfl, ho⟩)
    · exact absurd ((s.slot sl).receiving_iff.mp hr) hdone
  · obtain ⟨t, hnext, hstatus, hslot, hkeep⟩ := exec_storesSlot (i := .raclose sl) (s := s) <|
      (if_neg (Nat.not_le.mpr hsl)).trans <| (if_neg hfree).trans <| (if_neg hseq).trans <| if_neg hr
    have hrange : s.closeRange sl = [] := if_neg hr
    exact ⟨t, hnext, hstatus, hslot, fun hopen => absurd ((s.slot sl).receiving_iff.mpr hopen) hr,
      fun _ => hrange ▸ hkeep⟩

/-! ## RAFIND (R263, R264) -/

/-- The code RAFIND returns for the slots it found, lowest first. -/
def foundCode : List Nat → ResultCode
  | [] => .notFound
  | [_] => .ok
  | _ :: _ :: _ => .ambiguous

/-- The value RAFIND loads for the slots it found, lowest first. -/
def foundWord : List Nat → Word
  | [] => 0xFFFFFFFF
  | n :: _ => BitVec.ofNat 32 n

theorem exec_rafind (a b c : DReg) (s : State) : exec (.rafind a b c) s =
    complete Opcode.rafind (foundCode (s.found (s.dreg b) (s.dreg c)))
      (s.setDreg a (foundWord (s.found (s.dreg b) (s.dreg c)))) := by
  show execRafind a b c s = _
  unfold execRafind
  match s.found (s.dreg b) (s.dreg c) with
  | [] => rfl
  | [_] => rfl
  | _ :: _ :: _ => rfl

/-- RAFIND goes through the slots from the lowest number on. -/
theorem State.found_sorted (s : State) (k pg : Word) : (s.found k pg).Pairwise (· < ·) :=
  List.Pairwise.filter _ List.pairwise_lt_range

theorem State.lt_of_mem_found {s : State} {k pg : Word} {n : Nat} (h : n ∈ s.found k pg) : n < s.cfg.nslot :=
  (s.mem_slotNos n).mp (List.mem_of_mem_filter h)

/-- A number that RAFIND found is the number of a slot. -/
theorem State.exists_of_mem_found {s : State} (hc : s.cfg.wf) {k pg : Word} {n : Nat} (h : n ∈ s.found k pg) :
    ∃ x : SlotNo, x.toNat = n :=
  ⟨_, toNat_ofNat_of_lt_nslot hc (State.lt_of_mem_found h)⟩

theorem keyUsePgn_eq_false_iff (k : Word) : keyUsePgn k = false ↔ k.toNat / 2 ^ 16 % 2 = 0 := getLsbD_eq_iff k 16 false

/-- The slots that RAFIND finds, as R263 and R264 word it. -/
theorem State.toNat_mem_found (s : State) (k pg : Word) (x : SlotNo) : x.toNat ∈ s.found k pg ↔
    x.toNat < s.cfg.nslot ∧ ((s.slot x).state = .opened ∨ (s.slot x).state = .done) ∧
      (s.slot x).sa.toNat = k.toNat % 256 ∧ (s.slot x).da.toNat = k.toNat / 2 ^ 8 % 256 ∧
      (k.toNat / 2 ^ 16 % 2 = 0 ∨ (s.slot x).pgn.toNat = pg.toNat % 2 ^ 24) := by
  simp only [State.found, List.mem_filter, State.mem_slotNos, BitVec.ofNat_toNat, BitVec.setWidth_eq, Bool.and_eq_true,
    Bool.or_eq_true, Bool.not_eq_true', beq_iff_eq, Slot.addressed_iff, keyUsePgn_eq_false_iff, toNat_keySa, toNat_keyDa,
    ← BitVec.toNat_inj, toNat_pgnBits, and_assoc]

section
variable {M : List Nat} {n : Nat}

/-- A sorted list with one member. -/
theorem eq_singleton_of_sorted (hs : M.Pairwise (· < ·)) (hn : n ∈ M) (honly : ∀ m ∈ M, m = n) : M = [n] := by
  match M, hs with
  | [], _ => simp at hn
  | [m], _ => rw [honly m (by simp)]
  | m :: m' :: _, hs =>
    have hlt : m < m' := List.rel_of_pairwise_cons hs (by simp)
    have hm := honly m (by simp)
    have hm' := honly m' (by simp)
    omega

/-- A sorted list with a least member and another one. -/
theorem exists_cons_cons_of_sorted (hs : M.Pairwise (· < ·)) (hn : n ∈ M) (hleast : ∀ m ∈ M, n ≤ m)
    (hother : ∃ m ∈ M, m ≠ n) : ∃ m l, M = n :: m :: l := by
  obtain ⟨k, hk, hne⟩ := hother
  match M, hs with
  | [], _ => simp at hn
  | [m], _ =>
    rw [List.mem_singleton] at hn hk
    exact absurd (hk.trans hn.symm) hne
  | m :: m' :: l, hs =>
    have hle := hleast m (by simp)
    have heq : n = m := by
      obtain heq | htail := List.mem_cons.mp hn
      · exact heq
      · exact absurd (List.rel_of_pairwise_cons hs htail) (Nat.not_lt.mpr hle)
    exact ⟨m', l, by rw [heq]⟩

end

/-- The number of a slot fits a word. -/
theorem toNat_foundWord (x : SlotNo) (l : List Nat) : (foundWord (x.toNat :: l)).toNat = x.toNat :=
  Nat.mod_eq_of_lt (x.isLt.trans (by decide))

/-- Settles O44: RAFIND loads the lowest number of the sorted list of the slots found, and its code tells their number. -/
theorem rafindFinds : Obligations.RafindFinds := by
  unfold Obligations.RafindFinds
  intro a b c s hc i k hit
  have hfound : ∀ x : SlotNo, x.toNat ∈ s.found (s.dreg b) (s.dreg c) ↔ hit x := s.toNat_mem_found _ _
  have hsorted := s.found_sorted (s.dreg b) (s.dreg c)
  have hslot {n : Nat} (hn : n ∈ s.found (s.dreg b) (s.dreg c)) : ∃ x : SlotNo, x.toNat = n ∧ hit x := by
    obtain ⟨x, rfl⟩ := State.exists_of_mem_found hc hn
    exact ⟨x, rfl, (hfound x).mp hn⟩
  obtain ⟨t, hnext, hstatus, hval, hkeep⟩ := exec_loads (exec_rafind a b c s)
  refine ⟨t, hnext, hkeep, fun hnone => ?_, fun x hx honly => ?_, fun x hx hleast hother => ?_⟩
  · have hM : s.found (s.dreg b) (s.dreg c) = [] := List.eq_nil_iff_forall_not_mem.mpr fun n hn => by
      obtain ⟨x, -, hx⟩ := hslot hn
      exact hnone x hx
    rw [hM] at hstatus hval
    exact ⟨hstatus, hval⟩
  · have hM : s.found (s.dreg b) (s.dreg c) = [x.toNat] := eq_singleton_of_sorted hsorted ((hfound x).mpr hx) fun n hn => by
      obtain ⟨y, rfl, hy⟩ := hslot hn
      rw [honly y hy]
    rw [hM] at hstatus hval
    exact ⟨hstatus, hval ▸ toNat_foundWord x []⟩
  · obtain ⟨y, hy, hne⟩ := hother
    obtain ⟨m, l, hM⟩ := exists_cons_cons_of_sorted hsorted ((hfound x).mpr hx)
      (fun n hn => by
        obtain ⟨z, rfl, hz⟩ := hslot hn
        exact hleast z hz)
      ⟨y.toNat, (hfound y).mpr hy, fun e => hne (BitVec.eq_of_toNat_eq e)⟩
    rw [hM] at hstatus hval
    exact ⟨hstatus, hval ▸ toNat_foundWord x (m :: l)⟩

/-! ## The window of a flow-controlled session (R266 to R273) -/

/-- The grant is never above the offer, so eight bits hold it (R266). -/
theorem Slot.toNat_grant (r : Slot) (offer : BitVec 8) :
    (r.grant offer).toNat = min offer.toNat (r.npkt.toNat + 1 - r.next.toNat) :=
  Nat.mod_eq_of_lt (lt_of_le_of_lt (Nat.min_le_left _ _) offer.isLt)

/-- Settles O45: RACTS's checks in their order, then the window it opens and the word it loads. -/
theorem ractsGrants : Obligations.RactsGrants := by
  unfold Obligations.RactsGrants
  intro sl a b s
  refine ⟨fun hsl => ?_, fun hsl hready => ?_, fun hsl ⟨hopen, hmode⟩ _ => ?_⟩
  · exact faults_of_raiseFault (if_pos hsl)
  · exact faults_of_raiseFault <| (if_neg (Nat.not_le.mpr hsl)).trans <| if_pos (not_and_or.mp hready)
  have hexec : exec (.racts sl a b) s = complete Opcode.racts .ok
      ((s.setSlot sl ((s.slot sl).afterGrant ((s.dreg b).extractLsb' 0 8))).setDreg a
        ((s.slot sl).next ++ (s.slot sl).grant ((s.dreg b).extractLsb' 0 8))) :=
    (if_neg (Nat.not_le.mpr hsl)).trans <| if_neg (by simp [hopen, hmode])
  obtain ⟨hnext, hstatus, hkeep⟩ := exec_completed hexec rfl
  have hcount := (s.slot sl).toNat_grant ((s.dreg b).extractLsb' 0 8)
  rw [toNat_field, Nat.pow_zero, Nat.div_one] at hcount
  refine ⟨_, hnext, hstatus, ?_, ?_, ?_, hkeep⟩
  · rw [State.completed_dreg, State.setDreg_dreg_same, toNat_append_sum, hcount]
    omega
  · rw [State.completed_slot, State.setDreg_slot, State.setSlot_slot_same]
    exact hcount
  · rw [State.completed_slot, State.setDreg_slot, State.setSlot_slot_same]
    rfl

/-- The slots RACTSTX does not accept (R269). -/
theorem Slot.not_sendSession_iff (r : Slot) : (r.mode ≠ .txRts ∨ r.keyed = false) ↔
    ¬ (r.mode = .txRts ∧ (r.state = .opened ∨ r.state = .done)) := by
  rw [← Slot.keyed_iff, not_and_or, Bool.not_eq_true]

/-- RACTSTX with a count that fits the session, from the packet nx on (R269). -/
theorem exec_ractstx_applies {sl : SlotNo} {a b : DReg} {s : State} (hsl : sl.toNat < s.cfg.nslot)
    (hready : ¬ ((s.slot sl).mode ≠ .txRts ∨ (s.slot sl).keyed = false)) (hcnt : (s.dreg a).toNat ≠ 0)
    (hfits : ¬ (255 < (s.dreg a).toNat ∨ (s.dreg b).toNat < 1 ∨
      (s.slot sl).npkt.toNat + 1 < (s.dreg b).toNat + (s.dreg a).toNat)) :
    exec (.ractstx sl a b) s = complete Opcode.ractstx .ok
      (s.setSlot sl ((s.slot sl).afterCts (s.dreg b).toNat (s.dreg a).toNat)) := by
  refine (if_neg (Nat.not_le.mpr hsl)).trans <| (if_neg hready).trans <| (if_neg hcnt).trans <| (if_neg hfits).trans ?_
  cases hp : (s.slot sl).proto <;> simp [Slot.afterCts, hp]

/-- Settles O46: RACTSTX's checks in their order, the hold of count 0, and the window it opens. -/
theorem ractstxApplies : Obligations.RactstxApplies := by
  unfold Obligations.RactstxApplies
  intro sl a b s
  refine ⟨fun hsl => ?_, fun hsl hready => ?_, fun hsl hready hcnt hout => ?_, fun hsl hready hcnt => ?_,
    fun hsl hready hcnt hout => ?_⟩
  · exact faults_of_raiseFault (if_pos hsl)
  · exact faults_of_raiseFault <| (if_neg (Nat.not_le.mpr hsl)).trans <| if_pos ((s.slot sl).not_sendSession_iff.mpr hready)
  all_goals have hsend := mt (s.slot sl).not_sendSession_iff.mp (not_not.mpr hready)
  · exact refuses_of_complete <| (if_neg (Nat.not_le.mpr hsl)).trans <| (if_neg hsend).trans <| (if_neg hcnt).trans <|
      if_pos (by omega)
  · exact exec_storesSlot (i := .ractstx sl a b) <| (if_neg (Nat.not_le.mpr hsl)).trans <| (if_neg hsend).trans <|
      if_pos hcnt
  have hnpkt := (s.slot sl).npkt.isLt
  have hnext : (BitVec.ofNat 24 (s.dreg b).toNat).toNat = (s.dreg b).toNat := Nat.mod_eq_of_lt (by omega)
  have hcount : (BitVec.ofNat 8 (s.dreg a).toNat).toNat = (s.dreg a).toNat := Nat.mod_eq_of_lt (by omega)
  obtain ⟨t, hexec, hstatus, hslot, hkeep⟩ := exec_storesSlot (exec_ractstx_applies (b := b) hsl hsend hcnt (by omega))
  refine ⟨t, hexec, hstatus, hkeep, ?_⟩
  rw [hslot]
  refine ⟨hnext, hcount, fun hetp => ?_, fun htp => ?_, rfl⟩
  · have hdpo : ((s.slot sl).afterCts (s.dreg b).toNat (s.dreg a).toNat).dpo.toNat = (s.dreg b).toNat - 1 := by
      simp only [Slot.afterCts, hetp, if_true]
      exact Nat.mod_eq_of_lt (by omega)
    exact ⟨by omega, by simp [Slot.afterCts, hetp]⟩
  · simp [Slot.afterCts, htp]

/-- Settles O47: RADPO's checks in their order, then the burst it opens. -/
theorem radpoApplies : Obligations.RadpoApplies := by
  unfold Obligations.RadpoApplies
  intro sl a b s
  refine ⟨fun hsl => ?_, fun hsl hready => ?_, fun hsl ⟨hopen, hmode, hetp⟩ hbad => ?_,
    fun hsl ⟨hopen, hmode, hetp⟩ hgood => ?_⟩
  · exact faults_of_raiseFault (if_pos hsl)
  · exact faults_of_raiseFault <| (if_neg (Nat.not_le.mpr hsl)).trans <| if_pos (by simpa only [not_and_or] using hready)
  all_goals
    have hready : ¬ ((s.slot sl).state ≠ .opened ∨ (s.slot sl).mode ≠ .rxRts ∨ (s.slot sl).proto ≠ .etp) := by
      simp [hopen, hmode, hetp]
  · exact refuses_of_complete <| (if_neg (Nat.not_le.mpr hsl)).trans <| (if_neg hready).trans <| if_pos (by omega)
  · have hexec : exec (.radpo sl a b) s = complete Opcode.radpo .ok
        (s.setSlot sl ((s.slot sl).afterDpo (s.dreg b).toNat (s.dreg a).toNat)) :=
      (if_neg (Nat.not_le.mpr hsl)).trans <| (if_neg hready).trans <| if_neg (by omega)
    have hstart := (s.slot sl).wstart.isLt
    have hwcount := (s.slot sl).wcount.isLt
    obtain ⟨t, hnext, hstatus, hslot, hkeep⟩ := exec_storesSlot hexec
    refine ⟨t, hnext, hstatus, hkeep, ?_⟩
    rw [hslot]
    exact ⟨Nat.mod_eq_of_lt (by omega), Nat.mod_eq_of_lt (by omega), rfl⟩

/-! ## The passing of a packet (R251, R252, R275, R281) -/

/-- How advance ends: at the last packet, at the end of a window, or between the two. -/
theorem Slot.advance_end {r r' : Slot} {p : Nat} {k : Bool} {code : ResultCode} (h : r.advance p k = (r', code)) :
    (code = if r.npkt.toNat < r'.next.toNat then .complete
      else if r.mode.rts = true ∧ r'.wrecv = r.wcount then .burstDone else .ok) ∧
    r'.dpok = if k = true ∧ ¬ r.npkt.toNat < r'.next.toNat ∧ r.proto = .etp ∧ r.mode.rts = true ∧ r'.wrecv = r.wcount
      then false else r.dpok := by
  unfold Slot.advance at h
  extract_lets rts r1 at h
  have hrts : rts = r.mode.rts := rfl
  split at h
  next hlast =>
    obtain ⟨rfl, rfl⟩ := Prod.mk.inj h
    exact ⟨(if_pos hlast).symm, (if_neg fun ⟨_, hnot, _⟩ => hnot hlast).symm⟩
  next hlast =>
    split at h
    next hburst =>
      have hburst' : r.mode.rts = true ∧ r1.wrecv = r.wcount := by simpa [hrts] using hburst
      obtain ⟨hr, rfl⟩ := Prod.mk.inj h
      split at hr
      next hclear =>
        subst hr
        obtain ⟨hk, hetp⟩ : k = true ∧ r.proto = .etp := by simpa using hclear
        exact ⟨((if_neg hlast).trans (if_pos hburst')).symm, (if_pos ⟨hk, hlast, hetp, hburst'⟩).symm⟩
      next hclear =>
        subst hr
        have hclear' : ¬ (k = true ∧ r.proto = .etp) := by simpa using hclear
        exact ⟨((if_neg hlast).trans (if_pos hburst')).symm,
          (if_neg fun ⟨hk, _, hetp, _⟩ => hclear' ⟨hk, hetp⟩).symm⟩
    next hburst =>
      have hburst' : ¬ (r.mode.rts = true ∧ r1.wrecv = r.wcount) := by simpa [hrts] using hburst
      obtain ⟨rfl, rfl⟩ := Prod.mk.inj h
      exact ⟨((if_neg hlast).trans (if_neg hburst')).symm, (if_neg fun ⟨_, _, _, hb⟩ => hburst' hb).symm⟩

/-- What the passing of packet `next` makes of a legal record r, and the code it returns. -/
structure Slot.Passed (r r' : Slot) (clearDpok : Bool) (code : ResultCode) : Prop where
  next : r'.next.toNat = r.next.toNat + 1
  wrecv : r'.wrecv.toNat = if r.mode.rts = true then r.wrecv.toNat + 1 else r.wrecv.toNat
  code : code = if r.next.toNat = r.npkt.toNat then .complete
    else if r.mode.rts = true ∧ r'.wrecv = r.wcount then .burstDone else .ok
  rest : r' = { r with
    next := r'.next, wrecv := r'.wrecv
    state := if r.next.toNat = r.npkt.toNat then .done else .opened
    dpok := if clearDpok = true ∧ r.next.toNat ≠ r.npkt.toNat ∧ r.proto = .etp ∧ r'.wrecv = r.wcount then false else r.dpok }

/-- Every mode without flow control is a broadcast (R252). -/
theorem SlotMode.rts_of_not_bam {m : SlotMode} (h : m.bam = false) : m.rts = true := by
  revert h
  cases m <;> decide

theorem Slot.SessionOk.passed {c : Config} {r r' : Slot} {k : Bool} {code : ResultCode} (h : r.SessionOk c) (hc : c.wf)
    (hf : r.NextFits) (hr : r.advance r.next.toNat k = (r', code)) : r.Passed r' k code := by
  have ha : r.Advanced r' r.next.toNat k := by
    have ha := r.advance_advanced r.next.toNat k
    rwa [hr] at ha
  obtain ⟨hcode, hdpok⟩ := Slot.advance_end hr
  have hnpkt := h.npkt_lt hc
  have hle := hf.le_npkt
  have hnext : r'.next.toNat = r.next.toNat + 1 := by
    rw [ha.next]
    exact Nat.mod_eq_of_lt (by omega)
  have hlast : r.npkt.toNat < r'.next.toNat ↔ r.next.toNat = r.npkt.toNat := by omega
  have hetp : (r.proto = .etp ∧ r.mode.rts = true ∧ r'.wrecv = r.wcount) ↔ (r.proto = .etp ∧ r'.wrecv = r.wcount) :=
    ⟨fun ⟨he, _, hw⟩ => ⟨he, hw⟩, fun ⟨he, hw⟩ => ⟨he, SlotMode.rts_of_not_bam (h.etp_mode he), hw⟩⟩
  refine ⟨hnext, ?_, by simpa only [hlast] using hcode, ?_⟩
  · rw [ha.wrecv]
    split
    next hrts =>
      have hin := hf.in_window hrts
      have htaken := h.taken_le
      have hcount := r.wcount.isLt
      exact Nat.mod_eq_of_lt (by omega)
    · rfl
  · have hstate := ha.state
    simp only [hlast, hf.opened] at hstate
    simp only [hlast, hetp] at hdpok
    rw [← hstate, ← hdpok]
    exact ha.rest

/-! ## RADT (R275, R277, R279) -/

/-- The slot is an open receive and the frame a data packet: the checks of RADT that do not look at the packet's number. -/
structure State.Framed (s : State) (sl : SlotNo) (f : FrameReg) : Prop where
  slot : sl.toNat < s.cfg.nslot
  receiving : (s.slot sl).receiving = true
  len : (s.frame f).len = 8
  seqByte : (s.frame f).data[0] ≠ 0

theorem State.framed_of_byte0 {s : State} {sl : SlotNo} {f : FrameReg} (hready : sl.toNat < s.cfg.nslot ∧
    (s.slot sl).state = .opened ∧ ((s.slot sl).mode = .rxBam ∨ (s.slot sl).mode = .rxRts))
    (hlen : (s.frame f).len = 8) (hq : ((s.frame f).byte 0).toNat ≠ 0) : s.Framed sl f := by
  obtain ⟨hsl, hopen⟩ := hready
  refine ⟨hsl, (s.slot sl).receiving_iff.mpr hopen, hlen, fun h => hq ?_⟩
  rw [Frame.byte_zero, h]
  rfl

theorem State.Framed.ite_checks {s : State} {sl : SlotNo} {f : FrameReg} (h : s.Framed sl f) {x y z w r : Result} :
    (if s.cfg.nslot ≤ sl.toNat then x
      else if (s.slot sl).receiving = false then y
      else if (s.frame f).len ≠ 8 then z
      else if (s.frame f).data[0] = 0 then w
      else r) = r :=
  (if_neg (Nat.not_le.mpr h.slot)).trans <| (if_neg (by simp [h.receiving])).trans <|
    (if_neg (not_not.mpr h.len)).trans <| if_neg h.seqByte

theorem Slot.windowShut_iff (r : Slot) : r.windowShut = true ↔
    r.mode = .rxRts ∧ (r.wcount = 0 ∨ (r.proto = .etp ∧ r.dpok = false)) := by
  simp [Slot.windowShut, ← BitVec.toNat_inj]

/-- The end of an open window as R252 and R275 word it. -/
theorem Slot.pastWindow_iff {r : Slot} (h : ¬ r.windowShut = true) (p : Nat) : r.pastWindow p = true ↔
    if r.mode = .rxRts then r.wstart.toNat + r.wcount.toNat - 1 < p else r.npkt.toNat < p := by
  cases hm : r.mode with
  | rxRts =>
    have hcount : r.wcount.toNat ≠ 0 := fun e => h (r.windowShut_iff.mpr ⟨hm, .inl (BitVec.eq_of_toNat_eq e)⟩)
    simp only [Slot.pastWindow, hm, if_true, decide_eq_true_eq]
    omega
  | rxBam | txBam | txRts => simp [Slot.pastWindow, hm]

/-- Settles O48: RADT's faults and refusals in their order. -/
theorem radtRefuses : Obligations.RadtRefuses := by
  unfold Obligations.RadtRefuses
  intro sl f s
  refine ⟨fun hsl => ?_, fun hsl hready => ?_, fun hready hbad => ?_, fun hready ⟨hlen, hq⟩ hout => ?_,
    fun hready ⟨hlen, hq⟩ hshut hpast hdup => ?_, fun hready ⟨hlen, hq⟩ hshut hpast hgap => ?_⟩
  · exact faults_of_raiseFault (if_pos hsl)
  · have hr : ¬ (s.slot sl).receiving = true := fun h => hready ⟨hsl, (s.slot sl).receiving_iff.mp h⟩
    exact faults_of_raiseFault <| (if_neg (Nat.not_le.mpr hsl)).trans <| if_pos (Bool.eq_false_iff.mpr hr)
  · obtain ⟨hsl, hopen⟩ := hready
    have hr := (s.slot sl).receiving_iff.mpr hopen
    refine refuses_of_complete <| (if_neg (Nat.not_le.mpr hsl)).trans <| (if_neg (by simp [hr])).trans ?_
    by_cases hlen : (s.frame f).len = 8
    · have hq : (s.frame f).data[0] = 0 := by
        rw [← Frame.byte_zero]
        exact BitVec.eq_of_toNat_eq (not_not.mp fun hq => hbad ⟨hlen, hq⟩)
      exact (if_neg (not_not.mpr hlen)).trans (if_pos hq)
    · exact if_pos hlen
  all_goals
    have hframed := State.framed_of_byte0 hready hlen hq
    rw [Frame.byte_zero] at *
  · refine refuses_of_complete <| hframed.ite_checks.trans ?_
    by_cases hshut : (s.slot sl).windowShut = true
    · exact if_pos hshut
    · have hpast := hout.resolve_left (mt (s.slot sl).windowShut_iff.mpr hshut)
      exact (if_neg hshut).trans <| if_pos ((Slot.pastWindow_iff hshut _).mpr hpast)
  all_goals
    have hopen := mt (s.slot sl).windowShut_iff.mp hshut
    have hin := mt (Slot.pastWindow_iff hopen _).mp hpast
  · exact refuses_of_complete <| hframed.ite_checks.trans <| (if_neg hopen).trans <| (if_neg hin).trans <| if_pos hdup
  · exact refuses_of_complete <| hframed.ite_checks.trans <| (if_neg hopen).trans <| (if_neg hin).trans <|
      (if_neg (Nat.lt_asymm hgap)).trans <| if_pos hgap

/-- RADT with the packet that is next, inside the window. -/
theorem exec_radt_takes {sl : SlotNo} {f : FrameReg} {s : State} (h : s.Framed sl f)
    (hopen : ¬ (s.slot sl).windowShut = true) (hin : ¬ (s.slot sl).pastWindow (s.slot sl).next.toNat = true)
    (hnext : (s.slot sl).rxPacket (s.frame f).data[0] = (s.slot sl).next.toNat)
    (hbuf : s.inBuf sl (s.packetRange sl).off (s.packetRange sl).n) :
    exec (.radt sl f) s = complete Opcode.radt ((s.slot sl).advance (s.slot sl).next.toNat true).2
      ((s.setBuf sl ((s.buf sl).writeN (s.packetRange sl).off ((s.frame f).bytes 1 (s.packetRange sl).n))).setSlot sl
        ((s.slot sl).advance (s.slot sl).next.toNat true).1) := by
  have hbytes := (s.frame f).length_bytes_one (n := (s.packetRange sl).n) (chunkLen_le_seven _ _)
  refine h.ite_checks.trans <| (if_neg hopen).trans <| (if_neg (hnext ▸ hin)).trans <| (if_neg (by omega)).trans <|
    (if_neg (by omega)).trans ?_
  have hstore := State.memWrite_of_inBuf (hbytes.symm ▸ hbuf)
  simp only [State.packetRange, packetBase] at hstore
  dsimp only
  rw [hnext, hstore]
  rfl

/-- Settles O49: the bytes of the packet that RADT takes, and the session after it. -/
theorem radtTakesPacket : Obligations.RadtTakesPacket := by
  unfold Obligations.RadtTakesPacket
  intro sl f s hmem hslots i r ready q p base nb hready hlen hq hp hwin hdpo
  have hframed := State.framed_of_byte0 hready hlen hq
  have hrx : r.rxPacket (s.frame f).data[0] = p := by
    rw [← Frame.byte_zero]
    rfl
  clear_value p
  subst hp
  obtain ⟨hsl, hstate, hmode⟩ := hready
  have hok : r.SessionOk s.cfg := (hslots.each sl).session ((Slot.keyed_iff _).mpr (.inl hstate))
  have hle : r.next.toNat ≤ r.npkt.toNat := hok.next_le_npkt hstate
  have hopen : ¬ r.windowShut = true := fun h => by
    obtain ⟨hm, hcount | ⟨hetp, hunknown⟩⟩ := r.windowShut_iff.mp h
    · obtain ⟨hpos, -⟩ := hwin hm
      simp [hcount] at hpos
    · simp [hdpo hm hetp] at hunknown
  have hin : ¬ r.pastWindow r.next.toNat = true := by
    rw [Slot.pastWindow_iff hopen]
    split
    next hm =>
      obtain ⟨-, hlast⟩ := hwin hm
      exact Nat.not_lt.mpr hlast
    · exact Nat.not_lt.mpr hle
  have hrts : r.mode.rts = true ↔ r.mode = .rxRts := by
    obtain hm | hm := hmode <;> simp [r, hm, SlotMode.rts]
  have hpassed := hok.passed hslots.cfg (hok.nextFits_of_receiving hframed.receiving hin)
    (k := true) (Prod.eta _).symm
  obtain ⟨hnext, hstatus, hkeep⟩ := exec_completed
    (exec_radt_takes hframed hopen hin hrx ⟨hsl, hok.packet_le hle⟩) rfl
  refine ⟨_, hnext, hkeep, fun k hk => hmem.byteAt_segment sl _ _ (chunkLen_le_seven _ _) hk, ?_⟩
  rw [State.completed_slot, State.setSlot_slot_same]
  refine ⟨hpassed.next, ?_, ?_, ?_⟩
  · simpa only [hrts] using hpassed.wrecv
  · simpa only [true_and] using hpassed.rest
  · have hcode := hpassed.code
    simp only [hrts] at hcode
    exact hcode ▸ hstatus

/-! ## RATX (R273, R281, R282) -/

/-- A send with no granted packet left, as R281 words it. -/
theorem Slot.grantUsed_iff (r : Slot) : r.grantUsed = true ↔
    r.mode = .txRts ∧ (r.wcount = 0 ∨ r.wstart.toNat + r.wcount.toNat - 1 < r.next.toNat) := by
  have hzero : r.wcount = 0 ↔ r.wcount.toNat = 0 := BitVec.toNat_inj.symm
  simp only [Slot.grantUsed, Bool.and_eq_true, Bool.or_eq_true, beq_iff_eq, decide_eq_true_eq, hzero]
  refine and_congr_right fun _ => ?_
  omega

/-- The sequence byte of the next packet fits eight bits: a TP session has 255 packets at most (R256), and an ETP send counts
from the DPO of the window it is in (R273). -/
theorem Slot.SessionOk.toNat_seqByte {c : Config} {r : Slot} (h : r.SessionOk c) (hf : r.NextFits)
    (hr : r.sending = true) :
    (r.seqByte r.next.toNat).toNat = if r.proto = .etp then r.next.toNat - r.dpo.toNat else r.next.toNat := by
  have hle := hf.le_npkt
  cases hp : r.proto with
  | tp =>
    have hsize := h.tp_size hp
    have hnpkt := h.npkt
    unfold packetCount at hnpkt
    simp only [Slot.seqByte, hp, reduceCtorEq, if_false]
    exact Nat.mod_eq_of_lt (by omega)
  | etp =>
    have hbam := h.etp_mode hp
    have hrts := SlotMode.rts_of_not_bam hbam
    obtain ⟨-, hm | hm⟩ := r.sending_iff.mp hr
    · simp [hm, SlotMode.bam] at hbam
    have hin := hf.in_window hrts
    have htaken := h.taken_le
    have hcount := r.wcount.isLt
    obtain ⟨-, hdpo⟩ := h.dpo_law (h.granted hp hm (by omega))
    simp only [Slot.seqByte, hp, if_true]
    exact Nat.mod_eq_of_lt (by omega)

/-- The frame RATX builds: the sequence byte, the packet's bytes of the slot, 0xFF behind them (R281, R282). -/
def State.packetFrame (s : State) (sl : SlotNo) (f : FrameReg) : Frame :=
  (s.frame f).produced (frameBytes ((s.slot sl).seqByte (s.slot sl).next.toNat)
    ((s.buf sl).readN (s.packetRange sl).off (s.packetRange sl).n) 0xFF)

theorem State.built_packetFrame (s : State) (sl : SlotNo) (f : FrameReg) :
    (s.frame f).Built (s.packetFrame sl f) ((s.slot sl).seqByte (s.slot sl).next.toNat).toNat (s.packetRange sl).n
      (fun k => s.byteAt sl ((s.packetRange sl).off + k)) 0xFF := by
  have hlen := Memory.length_readN (s.buf sl) (s.packetRange sl).off (s.packetRange sl).n
  have hbuilt := (s.frame f).built_produced ((s.slot sl).seqByte (s.slot sl).next.toNat)
    ((s.buf sl).readN (s.packetRange sl).off (s.packetRange sl).n) 0xFF (fun k => s.byteAt sl ((s.packetRange sl).off + k))
    (hlen.trans_le (chunkLen_le_seven _ _)) fun k hk => Memory.getD_readN _ _ _ _ _ (hk.trans_eq hlen)
  rwa [hlen] at hbuilt

/-- RATX once its checks pass. -/
theorem exec_ratx_sends {sl : SlotNo} {f : FrameReg} {s : State} (hr : (s.slot sl).sending = true)
    (hg : ¬ (s.slot sl).grantUsed = true) (hbuf : s.inBuf sl (s.packetRange sl).off (s.packetRange sl).n) :
    exec (.ratx sl f) s = complete Opcode.ratx ((s.slot sl).advance (s.slot sl).next.toNat false).2
      ((s.setFrame f (s.packetFrame sl f)).setSlot sl ((s.slot sl).advance (s.slot sl).next.toNat false).1) := by
  have hload := State.memRead_of_inBuf hbuf
  obtain ⟨hsl, -⟩ := hbuf
  refine (if_neg (Nat.not_le.mpr hsl)).trans <| (if_neg (by simp [hr])).trans <| (if_neg hg).trans ?_
  simp only [State.packetRange, packetBase] at hload
  dsimp only
  rw [hload]
  rfl

/-- Settles O50: RATX's faults in their order, then the packet it builds and the session after it. -/
theorem ratxSendsPacket : Obligations.RatxSendsPacket := by
  unfold Obligations.RatxSendsPacket
  intro sl f s hslots
  refine ⟨fun hsl => ?_, fun hsl hready => ?_, fun ⟨hsl, hopen⟩ hspent => ?_, fun ⟨hsl, hopen⟩ hspent => ?_⟩
  · exact faults_of_raiseFault (if_pos hsl)
  · have hr : ¬ (s.slot sl).sending = true := fun h => hready ⟨hsl, (s.slot sl).sending_iff.mp h⟩
    exact faults_of_raiseFault <| (if_neg (Nat.not_le.mpr hsl)).trans <| if_pos (Bool.eq_false_iff.mpr hr)
  all_goals have hr := (s.slot sl).sending_iff.mpr hopen
  · exact faults_of_raiseFault <| (if_neg (Nat.not_le.mpr hsl)).trans <| (if_neg (by simp [hr])).trans <|
      if_pos ((s.slot sl).grantUsed_iff.mpr hspent)
  obtain ⟨hstate, hmode⟩ := hopen
  have hg := mt (s.slot sl).grantUsed_iff.mp hspent
  have hok := (hslots.each sl).session ((Slot.keyed_iff _).mpr (.inl hstate))
  have hfits := hok.nextFits_of_sending hr hg
  have hrts : (s.slot sl).mode.rts = true ↔ (s.slot sl).mode = .txRts := by
    obtain hm | hm := hmode <;> simp [hm, SlotMode.rts]
  have hpassed := hok.passed hslots.cfg hfits (k := false) (Prod.eta _).symm
  obtain ⟨hnext, hstatus, hkeep⟩ := exec_completed
    (exec_ratx_sends (f := f) hr hg ⟨hsl, hok.packet_le hfits.le_npkt⟩) (State.setFrame_status ..)
  refine ⟨_, hnext, hkeep, ?_, ?_⟩
  · rw [← hok.toNat_seqByte hfits hr, State.completed_frame, State.setSlot_frame, State.setFrame_frame_same]
    exact s.built_packetFrame sl f
  rw [State.completed_slot, State.setSlot_slot_same]
  refine ⟨hpassed.next, ?_, ?_, ?_⟩
  · simpa only [hrts] using hpassed.wrecv
  · simpa only [Bool.false_eq_true, false_and, if_false] using hpassed.rest
  · have hcode := hpassed.code
    simp only [hrts] at hcode
    exact hcode ▸ hstatus

end Sys2Proof.Machine
end

section
/-! PROOF. Obligations O28 to O32 (spec/44_buffer.md R300 to R311, spec/45_crc.md R326): the commands on the bytes of a slot,
CRCB, BRD, BWR, FTOB and BTOF. Their checks are said once; a command is then what it does to the bytes that pass them. -/

namespace Sys2Proof.Machine

/-! ## The checks (R300, R306) -/

section Checks

variable {i : Instr} {s : State} {op : BitVec 6} {sl : SlotNo} {off n : Nat} {r : Result} {Q : Prop}

/-- The two checks that every command on buffer bytes makes last, of the slot's state and of RAB_CAP, then r (R300). -/
def State.onBytes (s : State) (op : BitVec 6) (sl : SlotNo) (off n : Nat) (r : Result) : Result :=
  if s.rxBusy sl then raiseFault op .slotState s
  else if s.cfg.rabCap < off + n then raiseFault op .bufRange s
  else r

theorem State.onBytes_of_busy (h : s.RxBusy sl) : s.onBytes op sl off n r = raiseFault op .slotState s :=
  if_pos ((s.rxBusy_iff sl).mpr h)

theorem State.onBytes_of_past (hidle : ¬ s.RxBusy sl) (hpast : s.cfg.rabCap < off + n) :
    s.onBytes op sl off n r = raiseFault op .bufRange s :=
  (if_neg (mt (s.rxBusy_iff sl).mp hidle)).trans (if_pos hpast)

theorem State.onBytes_of_within (hidle : ¬ s.RxBusy sl) (hin : off + n ≤ s.cfg.rabCap) : s.onBytes op sl off n r = r :=
  (if_neg (mt (s.rxBusy_iff sl).mp hidle)).trans (if_neg (Nat.not_lt.mpr hin))

/-- CRCB, BRD and BWR: the slot's number is checked before its state and the range. -/
theorem exec_bufferCommand
    (hexec : exec i s = if s.cfg.nslot ≤ sl.toNat then raiseFault i.opcode .slotRange s else s.onBytes i.opcode sl off n r)
    (hpass : s.inBuf sl off n → exec i s = r → Q) :
    (s.cfg.nslot ≤ sl.toNat → Faults i .slotRange s) ∧
    (sl.toNat < s.cfg.nslot → s.RxBusy sl → Faults i .slotState s) ∧
    (sl.toNat < s.cfg.nslot → ¬ s.RxBusy sl → s.cfg.rabCap < off + n → Faults i .bufRange s) ∧
    (sl.toNat < s.cfg.nslot → ¬ s.RxBusy sl → off + n ≤ s.cfg.rabCap → Q) := by
  have hslot (hsl : sl.toNat < s.cfg.nslot) : exec i s = s.onBytes i.opcode sl off n r :=
    hexec.trans (if_neg (Nat.not_le.mpr hsl))
  refine ⟨fun hsl => ?_, fun hsl hbusy => ?_, fun hsl hidle hpast => ?_, fun hsl hidle hin => ?_⟩
  · exact faults_of_raiseFault (hexec.trans (if_pos hsl))
  · exact faults_of_raiseFault ((hslot hsl).trans (State.onBytes_of_busy hbusy))
  · exact faults_of_raiseFault ((hslot hsl).trans (State.onBytes_of_past hidle hpast))
  · exact hpass ⟨hsl, hin⟩ ((hslot hsl).trans (State.onBytes_of_within hidle hin))

/-- FTOB and BTOF: the range of frame bytes is checked between the slot's number and its state (R308, R311). -/
theorem exec_frameBufferCommand {f : FrameReg} {fo : Nat}
    (hexec : exec i s = if s.cfg.nslot ≤ sl.toNat then raiseFault i.opcode .slotRange s
      else if 8 < n then raiseFault i.opcode .fieldRange s
      else if (s.frame f).len.val < fo + n then raiseFault i.opcode .fieldRange s
      else s.onBytes i.opcode sl off n r)
    (hpass : fo + n ≤ (s.frame f).len.val → s.inBuf sl off n → exec i s = r → Q) :
    let badField := 8 < n ∨ (s.frame f).len.val < fo + n
    (s.cfg.nslot ≤ sl.toNat → Faults i .slotRange s) ∧
    (sl.toNat < s.cfg.nslot → badField → Faults i .fieldRange s) ∧
    (sl.toNat < s.cfg.nslot → ¬ badField → s.RxBusy sl → Faults i .slotState s) ∧
    (sl.toNat < s.cfg.nslot → ¬ badField → ¬ s.RxBusy sl → s.cfg.rabCap < off + n → Faults i .bufRange s) ∧
    (sl.toNat < s.cfg.nslot → ¬ badField → ¬ s.RxBusy sl → off + n ≤ s.cfg.rabCap → Q) := by
  intro badField
  rw [← ite_or] at hexec
  have hslot (hsl : sl.toNat < s.cfg.nslot) := hexec.trans (if_neg (Nat.not_le.mpr hsl))
  have hfield (hsl : sl.toNat < s.cfg.nslot) (hf : ¬ badField) := (hslot hsl).trans (if_neg hf)
  refine ⟨fun hsl => ?_, fun hsl hf => ?_, fun hsl hf hbusy => ?_, fun hsl hf hidle hpast => ?_, fun hsl hf hidle hin => ?_⟩
  · exact faults_of_raiseFault (hexec.trans (if_pos hsl))
  · exact faults_of_raiseFault ((hslot hsl).trans (if_pos hf))
  · exact faults_of_raiseFault ((hfield hsl hf).trans (State.onBytes_of_busy hbusy))
  · exact faults_of_raiseFault ((hfield hsl hf).trans (State.onBytes_of_past hidle hpast))
  · obtain ⟨-, hlen⟩ := not_or.mp hf
    exact hpass (Nat.le_of_not_lt hlen) ⟨hsl, hin⟩ ((hfield hsl hf).trans (State.onBytes_of_within hidle hin))

/-- A command that completes with the bytes bs stored in a slot of canonical memory. -/
theorem exec_storesBytes {c : ResultCode} {bs : List Byte} (hmem : s.MemOk)
    (h : exec i s = complete op c (s.setBuf sl ((s.buf sl).writeN off bs))) :
    ∃ t, exec i s = .next t ∧ s.returned t op c ∧
      (∀ k, k < bs.length → t.byteAt sl (off + k) = bs.getD k 0x00) ∧ s.KeepsOutside t (i.footprint s) := by
  obtain ⟨hnext, hstatus, hkeep⟩ := exec_completed h rfl
  exact ⟨_, hnext, hstatus, fun k hk => s.byteAt_stored sl off bs k (hmem.canonical sl) hk, hkeep⟩

end Checks

/-! ## CRCB (R321, R326) -/

/-- The bytes of a slot are fed in the order of their offsets (R321). -/
theorem State.crcFeed_readN (s : State) (sl : SlotNo) (off n : Nat) (poly c : BitVec 16) :
    crcFeed poly c ((s.buf sl).readN off n) =
      (List.range n).foldl (fun c k => crcByte poly c (s.byteAt sl (off + k))) c := by
  rw [crcFeed, Memory.readN_eq_map, List.foldl_map]
  rfl

/-- Settles O28: the checks of R326, then the fold over the bytes read. -/
theorem crcbFeedsBufferBytes : Obligations.CrcbFeedsBufferBytes := by
  unfold Obligations.CrcbFeedsBufferBytes
  intro sl a b s
  refine exec_bufferCommand rfl fun hin hexec => ?_
  rw [State.memRead_of_inBuf hin] at hexec
  obtain ⟨hnext, hstatus, hkeep⟩ := exec_completed hexec rfl
  exact ⟨_, hnext, hstatus, s.crcFeed_readN sl _ _ _ _, hkeep⟩

/-! ## BRD and BWR (R302, R305) -/

/-- The value BRD loads is that of the slot's own bytes. -/
theorem State.fieldValue_readN (s : State) (e : ByteOrder) (sl : SlotNo) (off : Nat) {w : Nat} (hw : w ≤ 4) :
    (fieldValue e ((s.buf sl).readN off w)).toNat = fieldSum e (fun k => s.byteAt sl (off + k)) w := by
  have hl := Memory.length_readN (s.buf sl) off w
  rw [fieldValue_toNat e _ (hl.trans_le hw), hl]
  exact fieldSum_congr e _ _ w fun k hk => Memory.getD_readN _ off w k 0 hk

/-- Settles O29: the checks of R302, then the value of the bytes read. -/
theorem brdReads : Obligations.BrdReads := by
  unfold Obligations.BrdReads
  intro e a sl b w s _ hw
  refine exec_bufferCommand rfl fun hin hexec => ?_
  rw [State.memRead_of_inBuf hin] at hexec
  obtain ⟨t, hnext, hstatus, hval, hkeep⟩ := exec_loads hexec
  exact ⟨t, hnext, hstatus, hval ▸ s.fieldValue_readN e sl _ hw, hkeep⟩

/-- Settles O30: the checks of R305, then the bytes stored, which have D[a]'s value but for the bits that do not fit. -/
theorem bwrWrites : Obligations.BwrWrites := by
  unfold Obligations.BwrWrites
  intro e sl b w a s hmem _ _
  refine exec_bufferCommand rfl fun hin hexec => ?_
  have hl := length_fieldBytes e (s.dreg a) w
  rw [State.memWrite_of_inBuf (hl.symm ▸ hin)] at hexec
  obtain ⟨t, hnext, hstatus, hbytes, hkeep⟩ := exec_storesBytes hmem hexec
  refine ⟨t, hnext, hstatus, ?_, hkeep⟩
  rw [← fieldSum_fieldBytes e (s.dreg a) w]
  exact fieldSum_congr e _ _ w fun k hk => hbytes k (hk.trans_eq hl.symm)

/-! ## FTOB and BTOF (R306, R308, R311) -/

/-- Settles O31: the checks of R308, then the frame's bytes stored in the slot. -/
theorem ftobCopies : Obligations.FtobCopies := by
  unfold Obligations.FtobCopies
  intro sl b f fo n s hmem
  refine exec_frameBufferCommand rfl fun hfield hin hexec => ?_
  have hl := Frame.length_bytes_of_le_len (Nat.not_lt.mpr hfield)
  rw [State.memWrite_of_inBuf (hl.symm ▸ hin)] at hexec
  obtain ⟨t, hnext, hstatus, hbytes, hkeep⟩ := exec_storesBytes hmem hexec
  refine ⟨t, hnext, hstatus, fun k hk => ?_, hkeep⟩
  rw [hbytes k (hk.trans_eq hl.symm)]
  exact Frame.getD_bytes _ _ _ k 0 hk (by omega)

/-- The bytes that a range of a frame is set to. -/
theorem Frame.byte_setBytes_within (fr : Frame) {off k : Nat} {bs : List Byte} (hk : k < bs.length)
    (h8 : off + bs.length ≤ 8) : (fr.setBytes off bs).byte (off + k) = bs.getD k 0x00 := by
  rw [Frame.byte_setBytes _ _ _ _ (by omega), if_pos (by omega), Nat.add_sub_cancel_left]

/-- Settles O32: the checks of R311, then the slot's bytes set in the frame. -/
theorem btofCopies : Obligations.BtofCopies := by
  unfold Obligations.BtofCopies
  intro f fo n sl b s
  refine exec_frameBufferCommand rfl fun hfield hin hexec => ?_
  rw [State.memRead_of_inBuf hin] at hexec
  obtain ⟨t, hnext, hstatus, hframe, hkeep⟩ := exec_storesFrame hexec
  have hl := Memory.length_readN (s.buf sl) (s.dreg b).toNat n.toNat
  have h8 := hfield.trans (Nat.le_of_lt_succ (s.frame f).len.isLt)
  refine ⟨t, hnext, hstatus, ?_⟩
  rw [hframe]
  refine ⟨fun k hk => ?_, fun k hk => ?_, rfl, rfl, rfl, hkeep⟩
  · rw [Frame.byte_setBytes_within _ (hk.trans_eq hl.symm) (hl.symm ▸ h8)]
    exact Memory.getD_readN _ _ _ k 0 hk
  · exact Frame.byte_setBytes_other _ (hl.symm ▸ hk)

end Sys2Proof.Machine
end

section
/-! PROOF. Obligations O25 to O27 (spec/45_crc.md R320 to R330): the loop of crc_byte on integers, the commands on the CRC
register, and CRCF. -/

namespace Sys2Proof.Machine

/-! ## crc_byte on integers (R320) -/

theorem toNat_crcShift (poly c : BitVec 16) : (crcShift poly c).toNat = crcTurn poly.toNat c.toNat := by
  have hshift : (c <<< 1).toNat = c.toNat * 2 % 2 ^ 16 := by
    rw [BitVec.toNat_shiftLeft, Nat.shiftLeft_eq, Nat.pow_one]
  have htop : c.getLsbD 15 = true ↔ c.toNat / 0x8000 % 2 = 1 := getLsbD_eq_iff c 15 true
  simp only [crcShift, crcTurn, htop]
  split
  · rw [BitVec.toNat_xor, hshift, Nat.xor_mod_two_pow (n := 16), Nat.mod_eq_of_lt poly.isLt]
  · exact hshift

theorem toNat_crcShifts (poly : BitVec 16) (n : Nat) (c : BitVec 16) :
    (crcShifts poly n c).toNat = (crcTurn poly.toNat)^[n] c.toNat := by
  induction n generalizing c with
  | zero => rfl
  | succ n ih => rw [crcShifts, ih, toNat_crcShift, Function.iterate_succ_apply]

/-- The byte enters at bits 15 to 8, so that its most significant bit is shifted out first. -/
theorem toNat_crcStart (c : BitVec 16) (b : Byte) :
    (c ^^^ (b.setWidth 16 <<< 8)).toNat = c.toNat ^^^ (b.toNat * 2 ^ 8) := by
  have hb := b.isLt
  rw [BitVec.toNat_xor, BitVec.toNat_shiftLeft, BitVec.toNat_setWidth_of_le (by decide), Nat.shiftLeft_eq,
    Nat.mod_eq_of_lt (by omega)]

theorem toNat_crcByte (poly c : BitVec 16) (b : Byte) :
    (crcByte poly c b).toNat = (crcTurn poly.toNat)^[8] (c.toNat ^^^ (b.toNat * 2 ^ 8)) := by
  rw [crcByte, toNat_crcShifts, toNat_crcStart]

/-- The check value of CRC-16/XMODEM, over "123456789" in ASCII (R320). -/
theorem crcByte_checkValue :
    [0x31, 0x32, 0x33, 0x34, 0x35, 0x36, 0x37, 0x38, 0x39].foldl (crcByte 0x1021) 0x0000 = 0x31C3 := by
  simp [crcByte, crcShifts, crcShift]

/-! ## The commands on the CRC register (R322, R328, R330) -/

/-- A command that completes with v stored in the CRC register. -/
theorem exec_storesCrc {i : Instr} {s : State} {op : BitVec 6} {c : ResultCode} {v : BitVec 16}
    (h : exec i s = complete op c (s.setCrc v)) :
    ∃ t, exec i s = .next t ∧ s.returned t op c ∧ t.crc = v ∧ s.KeepsOutside t (i.footprint s) := by
  obtain ⟨hnext, hstatus, hkeep⟩ := exec_completed h (State.setCrc_status ..)
  exact ⟨_, hnext, hstatus, State.setCrc_crc s v, hkeep⟩

/-- CRCRD reads the accumulator itself, with no final XOR (R320, R328). -/
theorem exec_crcrd (a : DReg) (s : State) :
    ∃ t, exec (.crcrd a) s = .next t ∧ s.returned t 0x13 .ok ∧ (t.dreg a).toNat = s.crc.toNat ∧
      s.KeepsOutside t { dregs := [a] } := by
  obtain ⟨t, hnext, hstatus, hval, hkeep⟩ := exec_loads (i := .crcrd a) (s := s) rfl
  exact ⟨t, hnext, hstatus, hval ▸ BitVec.toNat_setWidth_of_le (by decide), hkeep⟩

/-- CRCCHK compares with D[a] modulo 2 ^ 16 (R330). -/
theorem crc_eq_low_iff (c : BitVec 16) (v : Word) : c = v.extractLsb' 0 16 ↔ c.toNat = v.toNat % 2 ^ 16 := by
  rw [← BitVec.toNat_inj, toNat_field, Nat.pow_zero, Nat.div_one]

theorem exec_crcchk (a : DReg) (s : State) :
    exec (.crcchk a) s =
      complete Opcode.crcchk (if s.crc.toNat = (s.dreg a).toNat % 2 ^ 16 then .ok else .crcMismatch) s := by
  simp only [← crc_eq_low_iff]
  exact (apply_ite (complete Opcode.crcchk · s) _ _ _).symm

/-- Settles O25: each turn of the loop is a turn on integers; the check value; CRCRD reads the accumulator. -/
theorem crcByteIsLoop : Obligations.CrcByteIsLoop := by
  unfold Obligations.CrcByteIsLoop
  refine ⟨toNat_crcByte, crcByte_checkValue, fun a s => ?_⟩
  obtain ⟨t, hnext, -, hval, -⟩ := exec_crcrd a s
  exact ⟨t, hnext, hval⟩

/-- Settles O26: CRCCLR stores CRC_INIT, CRCRD loads the CRC, and CRCCHK completes at the state it began in. -/
theorem crcRegisterCommands : Obligations.CrcRegisterCommands := by
  unfold Obligations.CrcRegisterCommands
  intro a s
  refine ⟨exec_storesCrc (i := .crcclr) rfl, exec_crcrd a s, ?_⟩
  obtain ⟨t, hnext, hstatus, hkeep⟩ := exec_completesUnchanged (exec_crcchk a s) {}
  exact ⟨t, hnext, hkeep, hstatus⟩

/-! ## CRCF (R321, R324) -/

/-- The bytes of a frame are fed in the order of their offsets (R321). -/
theorem Frame.crcFeed_bytes (fr : Frame) {off n : Nat} (h : off + n ≤ fr.len.val) (poly c : BitVec 16) :
    crcFeed poly c (fr.bytes off n) = (List.range n).foldl (fun c k => crcByte poly c (fr.byte (off + k))) c := by
  have h8 := h.trans (Nat.le_of_lt_succ fr.len.isLt)
  rw [crcFeed, Frame.bytes_eq_map fr off n h8, List.foldl_map]

theorem exec_crcf (f : FrameReg) (off : BitVec 3) (n : BitVec 4) (s : State) :
    exec (.crcf f off n) s =
      if 8 < n.toNat ∨ (s.frame f).len.val < off.toNat + n.toNat then raiseFault Opcode.crcf .fieldRange s
      else complete Opcode.crcf .ok (s.setCrc (crcFeed s.cfg.crcPoly s.crc ((s.frame f).bytes off.toNat n.toNat))) :=
  (ite_or ..).symm

/-- Settles O27: the check of R324, then the fold over the frame's bytes; a range inside the frame has at most 8 bytes. -/
theorem crcfFeedsFrameBytes : Obligations.CrcfFeedsFrameBytes := by
  unfold Obligations.CrcfFeedsFrameBytes
  intro f off n s
  refine ⟨fun hbad => faults_of_raiseFault ((exec_crcf ..).trans (if_pos hbad)), fun hin => ?_⟩
  have hlen := (s.frame f).len.isLt
  have hgood : ¬ (8 < n.toNat ∨ (s.frame f).len.val < off.toNat + n.toNat) := by omega
  obtain ⟨t, hnext, hstatus, hcrc, hkeep⟩ := exec_storesCrc ((exec_crcf ..).trans (if_neg hgood))
  exact ⟨t, hnext, hstatus, hcrc.trans ((s.frame f).crcFeed_bytes hin _ _), hkeep⟩

end Sys2Proof.Machine
end

section
/-! PROOF. Obligation O8 (spec/60_exceptions.md R346 to R348): the two tables, read off each command's checks in the order of
its rule. -/

namespace Sys2Proof.Machine

/-! ## What a store leaves of STATUS -/

theorem State.memWrite_status {s t : State} {sl : SlotNo} {off : Nat} {bs : List Byte} (h : s.memWrite sl off bs = some t) :
    t.status = s.status := by
  obtain ⟨-, rfl⟩ := State.memWrite_eq_some.mp h
  rfl

theorem State.scrub_status {s t : State} {sl : SlotNo} (h : s.scrub sl = some t) : t.status = s.status := by
  obtain ⟨-, rfl⟩ := State.scrub_eq_some.mp h
  rfl

/-! ## The answers the tables allow -/

/-- The answers of command i at s that the tables of R347 and R348 allow. -/
inductive Tabled (i : Instr) (s : State) : Result → Prop
  /-- A code of i's row in R348, at a state that still has the STATUS the command began with (R346). -/
  | returned {c : ResultCode} {t : State} (ht : t.status = s.status) (hc : i.resultCodes.contains c = true) :
      Tabled i s (complete i.opcode c t)
  /-- A cause of i's row in R347, raised at the state the command began in. -/
  | raised {c : FaultCause} (hc : i.faultCauses.contains c = true) : Tabled i s (raiseFault i.opcode c s)
  /-- The model stops: there is no next state. -/
  | stopped {f : Fault} : Tabled i s (.fault f)

section Combinators

variable {i : Instr} {s t : State}

/-- What O8 says of a command whose answer the tables allow. -/
theorem Tabled.outcome (h : Tabled i s (exec i s)) (hr : exec i s = .next t) :
    (∃ c ∈ i.resultCodes, s.returned t i.opcode c) ∨ ∃ c ∈ i.faultCauses, Faults i c s := by
  generalize hx : exec i s = x at h hr
  cases h with
  | @returned c u hu hc =>
    obtain rfl := complete_eq_next.mp hr
    exact .inl ⟨c, List.contains_iff_mem.mp hc, (congrArg (Status.completed · i.opcode c) hu :)⟩
  | @raised c hc => exact .inr ⟨c, List.contains_iff_mem.mp hc, faults_of_raiseFault hx⟩
  | stopped => cases hr

theorem Tabled.ite {p : Prop} [Decidable p] {x y : Result} (hx : Tabled i s x) (hy : Tabled i s y) :
    Tabled i s (if p then x else y) := by
  split
  · exact hx
  · exact hy

/-- A MemRead, whatever bytes it answers. -/
theorem Tabled.loaded {o : Option (List Byte)} {k : List Byte → Result} (hk : ∀ bs, Tabled i s (k bs)) :
    Tabled i s (match o with | none => .fault .noSuchByte | some bs => k bs) := by
  cases o with
  | none => exact .stopped
  | some bs => exact hk bs

/-- A MemWrite or a scrub, which keeps STATUS. -/
theorem Tabled.stored {o : Option State} {k : State → Result} (ho : ∀ {u}, o = some u → u.status = s.status)
    (hk : ∀ u, u.status = s.status → Tabled i s (k u)) :
    Tabled i s (match o with | none => .fault .noSuchByte | some u => k u) := by
  cases o with
  | none => exact .stopped
  | some u => exact hk u (ho rfl)

end Combinators

/-! ## Codes that the state decides -/

/-- A code that a condition chooses, between two codes of the list. -/
theorem contains_ite {l : List ResultCode} {p : Prop} [Decidable p] {c c' : ResultCode} (hc : l.contains c = true)
    (hc' : l.contains c' = true) : l.contains (if p then c else c') = true := by
  split
  · exact hc
  · exact hc'

section Codes

variable {s u : State} (f : FrameReg) (cs : BitVec 3)

/-- SQSEND's last lines return OK or COMPLETE (R207, R210). -/
theorem sendHalf_tabled (hu : u.status = s.status) : Tabled (.sqsend f cs) s (sendHalf u) := by
  rw [sendHalf_eq_complete]
  refine .returned hu ?_
  unfold Sequencer.sendCode
  cases u.seq.role with
  | client => rfl
  | server => exact contains_ite rfl rfl

/-- SQRECV's last lines return OK or COMPLETE (R210, R211). -/
theorem recvHalf_tabled (hu : u.status = s.status) : Tabled (.sqrecv f cs) s (recvHalf u) := by
  rw [recvHalf_eq_complete]
  refine .returned hu ?_
  unfold Sequencer.recvCode
  cases u.seq.role with
  | client => exact contains_ite rfl rfl
  | server => rfl

/-- A packet that went through returns COMPLETE, BURST_DONE or OK (R275, R281). -/
theorem contains_advance {l : List ResultCode} (hcomplete : l.contains .complete = true)
    (hburst : l.contains .burstDone = true) (hok : l.contains .ok = true) (r : Slot) (p : Nat) (k : Bool) :
    l.contains (r.advance p k).2 = true := by
  obtain ⟨hcode, -⟩ := Slot.advance_end (show r.advance p k = ((r.advance p k).1, (r.advance p k).2) from rfl)
  rw [hcode]
  exact contains_ite hcomplete (contains_ite hburst hok)

end Codes

/-! ## The commands whose rule splits on the state -/

section Commands

variable (s : State) (a b c : DReg) (f : FrameReg) (cs : BitVec 3)

theorem execSqsend_tabled : Tabled (.sqsend f cs) s (execSqsend f cs s) := by
  refine .ite (.raised rfl) ?_
  cases s.seq.dir with
  | tx => exact .loaded fun _ => sendHalf_tabled f cs (State.setFrame_status ..)
  | rx => exact sendHalf_tabled f cs (State.setFrame_status ..)

theorem execSqrecv_tabled : Tabled (.sqrecv f cs) s (execSqrecv f cs s) := by
  refine .ite (.raised rfl) <| .ite (.returned rfl rfl) <| .ite (.returned rfl rfl) <| .ite (.returned rfl rfl) ?_
  cases s.seq.dir with
  | tx => exact recvHalf_tabled f cs rfl
  | rx =>
    exact .ite (.returned rfl rfl) <| .ite (.returned rfl rfl) <| .stored State.memWrite_status fun _ hu =>
      recvHalf_tabled f cs hu

/-- RAFIND by the number of slots it found (R263). -/
theorem execRafind_tabled : Tabled (.rafind a b c) s (execRafind a b c s) := by
  unfold execRafind
  split
  case h_1 => exact .returned rfl rfl
  case h_2 => exact .returned rfl rfl
  case h_3 => exact .returned rfl rfl

end Commands

/-! ## Every command: its checks in the order of its rule -/

/-- A command's checks answer from its row of R347 or R348; so does what follows the last of them. -/
theorem exec_tabled (i : Instr) (s : State) : Tabled i s (exec i s) := by
  cases i with
  | nop => exact .returned rfl rfl
  | ldi a imm => exact .returned rfl rfl
  | ldih a imm => exact .returned rfl rfl
  | finit f a fmt len fill => exact .ite (.raised rfl) <| .ite (.raised rfl) <| .returned (State.setFrame_status ..) rfl
  | fcopy f g => exact .returned (State.setFrame_status ..) rfl
  | fgetb e a f off w => exact .ite (.raised rfl) <| .returned rfl rfl
  | fputb e f off w a => exact .ite (.raised rfl) <| .returned (State.setFrame_status ..) rfl
  | fgetx a f sp pos n => exact .ite (.returned rfl rfl) (.raised rfl)
  | fputx f sp pos n a => exact .ite (.returned (State.setFrame_status ..) rfl) (.raised rfl)
  | fclass a f => exact .returned rfl rfl
  | crcclr => exact .returned rfl rfl
  | crcf f off n => exact .ite (.raised rfl) <| .ite (.raised rfl) <| .returned rfl rfl
  | crcb sl a b =>
    exact .ite (.raised rfl) <| .ite (.raised rfl) <| .ite (.raised rfl) <| .loaded fun _ => .returned rfl rfl
  | crcrd a => exact .returned rfl rfl
  | crcchk a => exact .ite (.returned rfl rfl) (.returned rfl rfl)
  | brd e a sl b w =>
    exact .ite (.raised rfl) <| .ite (.raised rfl) <| .ite (.raised rfl) <| .loaded fun _ => .returned rfl rfl
  | bwr e sl b w a =>
    exact .ite (.raised rfl) <| .ite (.raised rfl) <| .ite (.raised rfl) <| .stored State.memWrite_status fun _ hu =>
      .returned hu rfl
  | ftob sl b f fo n =>
    exact .ite (.raised rfl) <| .ite (.raised rfl) <| .ite (.raised rfl) <| .ite (.raised rfl) <| .ite (.raised rfl) <|
      .stored State.memWrite_status fun _ hu => .returned hu rfl
  | btof f fo n sl b =>
    exact .ite (.raised rfl) <| .ite (.raised rfl) <| .ite (.raised rfl) <| .ite (.raised rfl) <| .ite (.raised rfl) <|
      .loaded fun _ => .returned (State.setFrame_status ..) rfl
  | sqseg sl a dir role u =>
    exact .ite (.raised rfl) <| .ite (.raised rfl) <| .ite (.raised rfl) <| .ite (.raised rfl) <|
      .ite (.returned rfl rfl) <| .returned rfl rfl
  | sqblk sl a b dir =>
    exact .ite (.raised rfl) <| .ite (.raised rfl) <| .ite (.raised rfl) <| .ite (.raised rfl) <|
      .ite (.returned rfl rfl) <| .returned rfl rfl
  | sqsend f cs => exact execSqsend_tabled ..
  | sqrecv f cs => exact execSqrecv_tabled ..
  | sqbtx f => exact .ite (.raised rfl) <| .loaded fun _ => .returned (State.setFrame_status ..) (contains_ite rfl rfl)
  | sqbrx f =>
    exact .ite (.raised rfl) <| .ite (.returned rfl rfl) <| .ite (.returned rfl rfl) <| .ite (.returned rfl rfl) <|
      .ite (.returned rfl rfl) <| .stored State.memWrite_status fun _ hu => .returned hu (contains_ite rfl rfl)
  | sqback a b =>
    exact .ite (.raised rfl) <| .ite (.raised rfl) <| .ite (.raised rfl) <| .ite (.returned rfl rfl) <|
      .ite (.returned rfl rfl) (.returned rfl rfl)
  | sqrel =>
    exact .ite (.returned rfl rfl) <| .ite (.stored State.scrub_status fun _ hu => .returned hu rfl) (.returned rfl rfl)
  | raopen sl a b c =>
    exact .ite (.raised rfl) <| .ite (.raised rfl) <| .ite (.raised rfl) <| .ite (.raised rfl) <|
      .ite (.returned rfl rfl) <| .ite (.returned rfl rfl) <| .returned rfl rfl
  | raclose sl =>
    exact .ite (.raised rfl) <| .ite (.returned rfl rfl) <| .ite (.raised rfl) <|
      .ite (.stored State.scrub_status fun _ hu => .returned hu rfl) (.returned rfl rfl)
  | rafind a b c => exact execRafind_tabled ..
  | racts sl a b => exact .ite (.raised rfl) <| .ite (.raised rfl) <| .returned rfl rfl
  | ractstx sl a b =>
    exact .ite (.raised rfl) <| .ite (.raised rfl) <| .ite (.returned rfl rfl) <| .ite (.returned rfl rfl) <|
      .returned rfl rfl
  | radpo sl a b => exact .ite (.raised rfl) <| .ite (.raised rfl) <| .ite (.returned rfl rfl) <| .returned rfl rfl
  | radt sl f =>
    exact .ite (.raised rfl) <| .ite (.raised rfl) <| .ite (.returned rfl rfl) <| .ite (.returned rfl rfl) <|
      .ite (.returned rfl rfl) <| .ite (.returned rfl rfl) <| .ite (.returned rfl rfl) <| .ite (.returned rfl rfl) <|
      .stored State.memWrite_status fun _ hu => .returned hu (contains_advance rfl rfl rfl _ _ _)
  | ratx sl f =>
    exact .ite (.raised rfl) <| .ite (.raised rfl) <| .ite (.raised rfl) <| .loaded fun _ =>
      .returned (State.setFrame_status ..) (contains_advance rfl rfl rfl _ _ _)

/-- Settles O8: every answer of a command is one the tables allow. -/
theorem outcomesPerCommand : Obligations.OutcomesPerCommand := by
  unfold Obligations.OutcomesPerCommand
  intro i s t h
  exact (exec_tabled i s).outcome h

end Sys2Proof.Machine
end

section
/-! PROOF. Obligations O5 and O7 (spec/60_exceptions.md R340, R341, R345, R359): what a step does with the host's next access,
and what is left of that once the machine is faulted. -/

namespace Sys2Proof.Machine

/-! ## The host's next access -/

section Accesses

variable {s : State} {off : BitVec 12} {w : Word}

theorem step_of_pending {x : HostAccess} {rest : List HostAccess} (h : s.bus.pending = x :: rest) :
    step s = runAccess x (s.withPending rest) := by
  simp only [step, stepOnce, h]

theorem step_of_idle (h : s.bus.pending = []) : step s = .next s := by
  simp only [step, stepOnce, h]

/-- No register shows the host's lists. -/
theorem State.withPending_hostRead (s : State) (rest : List HostAccess) (off : BitVec 12) :
    (s.withPending rest).hostRead off = s.hostRead off := rfl

/-! ## A write of CMD (R340, R341) -/

theorem runCommand_of_decode {i : Instr} (hflt : s.status.flt = false) (h : decode w = .ok i) : runCommand w s = exec i s := by
  simp [runCommand, hflt, h]

theorem runCommand_of_faulted (hflt : s.status.flt = true) : runCommand w s = .next s := if_pos hflt

end Accesses

/-- Settles O5: a step is the host's next access, and CMD's word runs what is written to it. -/
theorem stepRunsDecodedCommand : Obligations.StepRunsDecodedCommand := by
  unfold Obligations.StepRunsDecodedCommand
  intro s off w rest
  refine ⟨fun h hoff hflt i hi => ?_, step_of_pending, fun h => ?_, step_of_idle⟩
  · calc step s = hostWrite off w (s.withPending rest) := step_of_pending h
      _ = runCommand w (s.withPending rest) := hostWrite_cmd hoff w
      _ = exec i (s.withPending rest) := runCommand_of_decode hflt hi
  · rw [step_of_pending h, runAccess, s.withPending_hostRead]
    rfl

/-! ## A faulted machine (R341, R345) -/

section Faulted

variable {s : State} {off : BitVec 12} {w : Word}

/-- CTRL is at its own word of the window only (R31). -/
theorem wordIndex_of_regAt_ctrl {c : Config} (h : regAt c off = some .ctrl) : off.toNat / 4 = 1 := by
  unfold regAt at h
  rw [wordIndex_toNat] at h
  dsimp only at h
  split at h
  case h_2 hk => exact hk
  case h_18 =>
    split at h
    · cases h
    · split at h <;> cases h
  all_goals cases h

/-- A command is ignored, and no other register's write changes STATUS but CTRL's with bit 0 set. -/
theorem writeReg_keeps_status {g : HostReg} (hflt : s.status.flt = true) (hreset : g = .ctrl → w.getLsbD 0 = false) :
    ∃ t, writeReg g w s = .next t ∧ t.status = s.status := by
  cases g with
  | cmd => exact ⟨s, runCommand_of_faulted hflt, rfl⟩
  | ctrl => exact ⟨s, congrArg Host.Outcome.next (if_neg (Bool.eq_false_iff.mp (hreset rfl))), rfl⟩
  | fId f => exact ⟨_, rfl, State.setFrame_status ..⟩
  | fLen f => exact ⟨_, rfl, State.setFrame_status ..⟩
  | fDhi f => exact ⟨_, rfl, State.setFrame_status ..⟩
  | fDlo f => exact ⟨_, rfl, State.setFrame_status ..⟩
  | _ => exact ⟨_, rfl, rfl⟩

theorem hostWrite_keeps_status (hflt : s.status.flt = true) (hreset : off.toNat / 4 = 1 → w.getLsbD 0 = false) :
    ∃ t, hostWrite off w s = .next t ∧ t.status = s.status := by
  cases hreg : regAt s.cfg off with
  | none => exact ⟨s, hostWrite_of_unmapped hreg w, rfl⟩
  | some g =>
    rw [hostWrite_of_regAt hreg]
    exact writeReg_keeps_status hflt fun hg => hreset (wordIndex_of_regAt_ctrl (hg ▸ hreg))

end Faulted

/-- Settles O7: a write of CMD is ignored; a read and any other write keep STATUS; the two resets are those of O16. -/
theorem faultIsSticky : Obligations.FaultIsSticky := by
  unfold Obligations.FaultIsSticky
  intro s x rest h hflt resets
  rw [step_of_pending h]
  refine ⟨?cmd, fun hkeep => ?keeps, ?resets⟩
  case cmd =>
    rintro off w rfl hoff
    exact (hostWrite_cmd hoff w).trans (runCommand_of_faulted hflt)
  case keeps =>
    cases x with
    | read off => exact ⟨_, rfl, rfl⟩
    | hardReset => exact absurd (.inl rfl) hkeep
    | write off v =>
      refine hostWrite_keeps_status (s := s.withPending rest) hflt fun hoff => ?_
      exact Bool.eq_false_iff.mpr fun hv => hkeep (.inr ⟨off, v, rfl, hoff, hv⟩)
  case resets =>
    rintro (rfl | ⟨off, v, rfl, hoff, hv⟩)
    · rfl
    · obtain ⟨-, hctrl, -⟩ := resetsLeaveResetState (s.withPending rest) off v rest
      exact hctrl hoff hv

end Sys2Proof.Machine
end

section
/-! PROOF. Obligations O17 and O51 (spec/70_reset_and_hazards.md R380, R384): what each part of the state reads at
reset, and that the invariant holds there. -/

namespace Sys2Proof.Machine

/-! ## The parts of the reset state -/

section ResetState

variable (c : Config)

/-- With no host access pending the reset state is its own soft reset (R381), so what is known of a soft reset holds of it. -/
theorem State.softReset_resetOf : (State.resetOf c).softReset = State.resetOf c := rfl

@[simp] theorem State.resetOf_cfg : (State.resetOf c).cfg = c := rfl
@[simp] theorem State.resetOf_crc : (State.resetOf c).crc = c.crcInit := rfl
@[simp] theorem State.resetOf_status : (State.resetOf c).status = Status.reset := rfl
@[simp] theorem State.resetOf_seq : (State.resetOf c).seq = Sequencer.idle := rfl
@[simp] theorem State.resetOf_dreg (r : DReg) : (State.resetOf c).dreg r = 0 := by
  rw [← State.softReset_resetOf, State.softReset_dreg]
@[simp] theorem State.resetOf_frame (f : FrameReg) : (State.resetOf c).frame f = Frame.reset := by
  rw [← State.softReset_resetOf, State.softReset_frame]
@[simp] theorem State.resetOf_slot (x : SlotNo) : (State.resetOf c).slot x = Slot.free := by
  rw [← State.softReset_resetOf, State.softReset_slot]
@[simp] theorem State.resetOf_buf (x : SlotNo) : (State.resetOf c).buf x = [] := by
  rw [← State.softReset_resetOf, State.softReset_buf]

/-- An offset that no cell names reads 0x00 (R55), and at reset there is no cell. -/
@[simp] theorem State.resetOf_byteAt (x : SlotNo) (o : Nat) : (State.resetOf c).byteAt x o = 0x00 := by
  rw [State.byteAt, State.resetOf_buf, Memory.read_nil]

end ResetState

@[simp] theorem Frame.reset_byte (k : Nat) : Frame.reset.byte k = 0 := by
  rw [Frame.byte, Frame.reset, Vector.toList_replicate, List.getD_eq_getElem?_getD,
    List.getElem?_getD_replicate_default_eq]

theorem State.hostRead_id (s : State) : s.hostRead 0x000 = Config.idWord s.cfg :=
  State.hostRead_of_regAt (g := .id) rfl

/-- Legal parameters fit ID's fields (R5, R6), so none is cut. -/
theorem Config.idWord_toNat_of_wf {c : Config} (hc : c.wf) : (Config.idWord c).toNat = 2 ^ 8 * c.rabCap + c.nslot := by
  obtain ⟨-, hslots, -, hcap⟩ := hc
  rw [Config.idWord_toNat]
  omega

/-- Settles O17: each row of R380's table, read off the part of the reset state it names. -/
theorem resetValues : Obligations.ResetValues := by
  unfold Obligations.ResetValues
  intro c
  have hframe (f : FrameReg) : ((State.resetOf c).frame f).id = 0 ∧ ((State.resetOf c).frame f).ext = .std ∧
      ((State.resetOf c).frame f).len = 0 ∧ ∀ k, ((State.resetOf c).frame f).byte k = 0 := by
    rw [State.resetOf_frame]
    exact ⟨rfl, rfl, rfl, Frame.reset_byte⟩
  have hid (hc : c.wf) : ((State.resetOf c).hostRead 0x000).toNat = 2 ^ 8 * c.rabCap + c.nslot := by
    rw [State.hostRead_id, State.resetOf_cfg, Config.idWord_toNat_of_wf hc]
  exact ⟨State.resetOf_dreg c, hframe, State.resetOf_crc c, State.resetOf_status c, State.resetOf_seq c,
    State.resetOf_slot c, State.resetOf_byteAt c, State.resetOf_cfg c, hid⟩

/-! ## The invariant at reset -/

section InvariantAtReset

variable (c : Config)

theorem State.framesOk_resetOf : (State.resetOf c).FramesOk where
  std_id f _ := by
    rw [State.resetOf_frame]
    decide

theorem State.statusOk_resetOf : (State.resetOf c).StatusOk where
  known_rc := ⟨.ok, rfl⟩
  ready _ := (by decide : Status.reset.cause = 0 ∧ Status.reset.rc ≠ 0xFF)
  faulted := nofun

theorem State.memOk_resetOf : (State.resetOf c).MemOk where
  canonical := State.reset_buf_wf c
  inside x cell hcell := by simp at hcell

/-- SEQ is idle and no slot is bound: the link of R48 holds on both sides. -/
theorem State.bindOk_resetOf : (State.resetOf c).BindOk where
  bound hmode := absurd rfl hmode
  only x hx := by simp [Slot.free] at hx
  idle _ := rfl

theorem State.keysOk_resetOf : (State.resetOf c).KeysOk where
  distinct x _ _ hx := by simp [Slot.free, Slot.keyed] at hx

variable {c}

theorem State.slotsOk_resetOf (hc : c.wf) : (State.resetOf c).SlotsOk where
  cfg := hc
  each x := State.resetOf_slot c x ▸ Slot.ok_free c
  absent x _ := State.resetOf_slot c x

/-- SEQ.slot is 0 at reset, so this needs a slot 0: NSLOT ≥ 1 (R5). -/
theorem State.seqOk_resetOf (hc : c.wf) : (State.resetOf c).SeqOk := by
  obtain ⟨hone, -, -, -⟩ := hc
  exact (State.resetOf c).seqOk_iff.mpr ⟨hone, Sequencer.legal_idle c⟩

end InvariantAtReset

/-- Settles O51: the parts of the invariant one by one; only the slots' and SEQ's need legal parameters. -/
theorem invariantAtReset : Obligations.InvariantAtReset := by
  unfold Obligations.InvariantAtReset
  exact fun c hc =>
    { frames := State.framesOk_resetOf c
      status := State.statusOk_resetOf c
      mem := State.memOk_resetOf c
      bind := State.bindOk_resetOf c
      keys := State.keysOk_resetOf c
      slots := State.slotsOk_resetOf hc
      seq := State.seqOk_resetOf hc }

end Sys2Proof.Machine
end
